-- ==== Sys2Proof/Word.lean ====
section
/-! DEFINITION. The word types of the engine: bytes of FRAME and of the encode buffers, 32-bit words of the bus, of CMD and of
pulse memory (spec/00_scope.md R13, R14). -/

namespace Sys2Proof

/-- One byte: a FRAME byte or a byte of an encode buffer. -/
abbrev Byte := BitVec 8

/-- One 32-bit word: a command word, a pulse word or a register's value. -/
abbrev Word := BitVec 32

end Sys2Proof
end

