-- ==== Sys2Proof/Syntax.lean ====
section
/-! DEFINITION. The operations of the engine, one constructor per row of the opcode map (spec/30_encoding.md R109,
spec/opcode_table.json): seven host commands, three classes of pulse word, two interrupt events. -/

namespace Sys2Proof

/-- The twelve operations (R2, R109). Operands are the fields of R102 to R105 and R108, unscaled (R112); an index is a `Fin`. -/
inductive Instr where
  /-- CMD `NOP` (R187). -/
  | nop
  /-- CMD `INIT`: requested channel count and GPIO list length (R102, R181). -/
  | init (nch ngpio : BitVec 4)
  /-- CMD `LOAD`: pixel count (R103, R137). -/
  | load (p : BitVec 16)
  /-- CMD `PRIME` (R156). -/
  | prime
  /-- CMD `ARM` (R184). -/
  | arm
  /-- CMD `START` (R185). -/
  | start
  /-- CMD `WAIT`: logical channel (R104, R186). -/
  | wait (ch : Fin 8)
  /-- Pulse word of class DATA: both durations nonzero (R106, R160). -/
  | pulseData (lvl0 : Bool) (dur0 : BitVec 15) (lvl1 : Bool) (dur1 : BitVec 15)
  /-- Pulse word of class END: DUR0 = 0; bits [31:15] are ignored (R106, R161). -/
  | pulseEnd (ignored : BitVec 17)
  /-- Pulse word of class HALF: DUR0 nonzero, DUR1 = 0; the levels are ignored (R106, R162). -/
  | pulseHalf (lvl0 : Bool) (dur0 : BitVec 15) (lvl1 : Bool)
  /-- Threshold event of a unit (R108, R215). -/
  | eventThr (u : Fin 8)
  /-- End-of-transmission event of a unit (R108, R216). -/
  | eventEnd (u : Fin 8)
deriving DecidableEq, Repr

end Sys2Proof
end

