-- ==== Sys2Proof/WellFormed.lean ====
section
/-! DEFINITION. Which terms of `Instr` are operations of the engine: every term of a command or an event is, and a pulse word
must lie in the class its constructor names (spec/30_encoding.md R106). -/

namespace Sys2Proof

/-- The durations agree with the class (R106): DATA has two nonzero durations, HALF a nonzero first one. All other fields are
exactly as wide as the encoding's, so every value of theirs is well formed (R102 to R104, R108). -/
def Instr.wellFormed : Instr → Bool
  | .nop => true
  | .init _ _ => true
  | .load _ => true
  | .prime => true
  | .arm => true
  | .start => true
  | .wait _ => true
  | .pulseData _ dur0 _ dur1 => dur0 != 0#15 && dur1 != 0#15
  | .pulseEnd _ => true
  | .pulseHalf _ dur0 _ => dur0 != 0#15
  | .eventThr _ => true
  | .eventEnd _ => true

/-- `i` is an operation of the engine. -/
abbrev Instr.WellFormed (i : Instr) : Prop := i.wellFormed = true

end Sys2Proof
end

