-- ==== Sys2Proof/Decode.lean ====
section
/-! DEFINITION. The decoders of the three formats (spec/30_encoding.md R100, R106, R108, R111), the encoder, and the reading of a
word of spec/opcode_table.json. A command decoder is total and rejects by name; every pulse word and every event number decodes. -/

namespace Sys2Proof

/-- A word together with where it was found, which is what tells its format (R100). -/
inductive RawWord where
  /-- a word written to CMD -/
  | cmd (w : Word)
  /-- a word fetched from pulse memory -/
  | pulse (w : Word)
  /-- an event number, the index of an INT_ST bit -/
  | event (e : BitVec 4)
deriving DecidableEq, Repr

/-- Why a word decodes to no operation. -/
inductive DecodeError where
  /-- OP 0x7..0xF, or a reserved bit of the word is set (R110). -/
  | illegalCommand
deriving DecidableEq, Repr

/-- A decoder's answer. -/
inductive Decoded where
  | ok (i : Instr)
  | error (e : DecodeError)
deriving DecidableEq, Repr

/-- The `len` bits of `w` from bit `lo` up (R13). -/
def bits {n : Nat} (w : BitVec n) (lo len : Nat) : BitVec len := w.extractLsb' lo len

/-- Bit `i` of `w` (R13). -/
def bit {n : Nat} (w : BitVec n) (i : Nat) : Bool := w.getLsbD i

/-- `i` if the reserved bits, gathered in `reserved`, are all 0; else an illegal command (R110). -/
def unreserved {n : Nat} (reserved : BitVec n) (i : Instr) : Decoded :=
  if reserved = 0#n then .ok i else .error .illegalCommand

/-- `decode_cmd` of R111. -/
def decodeCmd (w : Word) : Decoded :=
  match (bits w 28 4).toNat with
  | 0x0 => unreserved (bits w 0 28) .nop
  | 0x1 => unreserved (bits w 8 20) (.init (bits w 0 4) (bits w 4 4))
  | 0x2 => unreserved (bits w 16 12) (.load (bits w 0 16))
  | 0x3 => unreserved (bits w 0 28) .prime
  | 0x4 => unreserved (bits w 0 28) .arm
  | 0x5 => unreserved (bits w 0 28) .start
  | 0x6 => unreserved (bits w 3 25) (.wait (bits w 0 3).toFin)
  | _ => .error .illegalCommand

/-- The class of a pulse word (R106), with its fields (R105). -/
def decodePulse (w : Word) : Instr :=
  if bits w 0 15 = 0#15 then .pulseEnd (bits w 15 17)
  else if bits w 16 15 = 0#15 then .pulseHalf (bit w 15) (bits w 0 15) (bit w 31)
  else .pulseData (bit w 15) (bits w 0 15) (bit w 31) (bits w 16 15)

/-- The event an event number names: kind in bit 3, unit in bits [2:0] (R108). -/
def decodeEvent (e : BitVec 4) : Instr :=
  if bit e 3 then .eventEnd (bits e 0 3).toFin else .eventThr (bits e 0 3).toFin

/-- The operation a word stands for where it was found. -/
def decode : RawWord → Decoded
  | .cmd w => decodeCmd w
  | .pulse w => .ok (decodePulse w)
  | .event e => .ok (decodeEvent e)

/-- A pulse word from its four fields (R105). -/
def packPulse (lvl0 : Bool) (dur0 : BitVec 15) (lvl1 : Bool) (dur1 : BitVec 15) : Word :=
  BitVec.ofBool lvl1 ++ dur1 ++ BitVec.ofBool lvl0 ++ dur0

/-- The number of an event: {K, U} (R108). -/
def packEvent (isEnd : Bool) (u : Fin 8) : BitVec 4 :=
  BitVec.ofBool isEnd ++ BitVec.ofNat 3 u.val

/-- The word of an operation, in the place where it is found (R101 to R105, R108, R109). -/
def encode : Instr → RawWord
  | .nop => .cmd (0x0#4 ++ 0#28)
  | .init nch ngpio => .cmd (0x1#4 ++ 0#20 ++ ngpio ++ nch)
  | .load p => .cmd (0x2#4 ++ 0#12 ++ p)
  | .prime => .cmd (0x3#4 ++ 0#28)
  | .arm => .cmd (0x4#4 ++ 0#28)
  | .start => .cmd (0x5#4 ++ 0#28)
  | .wait ch => .cmd (0x6#4 ++ 0#25 ++ BitVec.ofNat 3 ch.val)
  | .pulseData lvl0 dur0 lvl1 dur1 => .pulse (packPulse lvl0 dur0 lvl1 dur1)
  | .pulseEnd ignored => .pulse (ignored ++ 0#15)
  | .pulseHalf lvl0 dur0 lvl1 => .pulse (packPulse lvl0 dur0 lvl1 0#15)
  | .eventThr u => .event (packEvent false u)
  | .eventEnd u => .event (packEvent true u)

/-- Where a word of spec/opcode_table.json is taken to stand. The table's number does not say whether a 32-bit word is written to
CMD or fetched by a unit: it is read as a command if it is a legal one, else as a pulse word. A word of at most 8 bits is an event
number. DESIGN CHOICE (log 14): this is the table reading only; the machine itself tells the formats apart by place (R100). -/
def tableWord (nbits w : Nat) : Option RawWord :=
  if nbits ≤ 8 then (if w < 16 then some (.event (BitVec.ofNat 4 w)) else none)
  else if w < 2 ^ 32 then
    match decodeCmd (BitVec.ofNat 32 w) with
    | .ok _ => some (.cmd (BitVec.ofNat 32 w))
    | .error _ => some (.pulse (BitVec.ofNat 32 w))
  else none

/-- The operation a decoder's answer holds, if any. -/
def Decoded.instr? : Decoded → Option Instr
  | .ok i => some i
  | .error _ => none

/-- The operation the decoder reads from a word of the opcode table. -/
def decodeTableWord (nbits w : Nat) : Option Instr :=
  (tableWord nbits w).bind fun r => (decode r).instr?

end Sys2Proof
end

