-- ==== Sys2Proof/Config.lean ====
section
/-! DEFINITION. What an implementation fixes (spec/00_scope.md R9), what the outside world can do to the engine, and the free
values: the parameters of the machine that comes out of reset, and the order in which its agents move. -/

namespace Sys2Proof

/-- The open parameters of R9, before their constraints are checked. UNITS and TOTAL_BLOCKS are 8 and no parameters (R9, D2). -/
structure RawParams where
  /-- PPB, pulse words per block -/
  ppb : Nat
  /-- T0H, T0L, T1H, T1L, TRESET, in ticks -/
  t0h : BitVec 15
  t0l : BitVec 15
  t1h : BitVec 15
  t1l : BitVec 15
  treset : BitVec 15
  /-- CLK_DIV -/
  clkDiv : BitVec 8
  /-- MAX_PIXELS -/
  maxPixels : Nat
deriving DecidableEq, Repr

/-- The constraints of R9. -/
abbrev RawParams.Valid (p : RawParams) : Prop :=
  16 ≤ p.ppb ∧ p.ppb ≤ 128 ∧ p.ppb % 16 = 0 ∧
  0 < p.t0h.toNat ∧ 0 < p.t0l.toNat ∧ 0 < p.t1h.toNat ∧ 0 < p.t1l.toNat ∧ 0 < p.treset.toNat ∧
  p.t0h.toNat < p.t1h.toNat ∧ p.t1l.toNat < p.t0l.toNat ∧
  p.t0l.toNat < p.treset.toNat ∧ p.t1l.toNat < p.treset.toNat ∧
  0 < p.clkDiv.toNat ∧
  1 ≤ p.maxPixels ∧ p.maxPixels ≤ 65535

/-- The example configuration of the spec's test vectors (spec/95_test_vectors.md part 0). No rule depends on it; tests use it. -/
def RawParams.sample : RawParams where
  ppb := 64
  t0h := 10#15
  t0l := 30#15
  t1h := 25#15
  t1l := 15#15
  treset := 2000#15
  clkDiv := 1#8
  maxPixels := 64

/-- The parameters of a machine. A configuration outside the constraints cannot be built: it is refused before any step (R242). -/
structure Params where
  raw : RawParams := RawParams.sample
  valid : raw.Valid := by decide
deriving DecidableEq, Repr, Inhabited

/-- The check of a configuration before any step (R242). -/
def RawParams.check (p : RawParams) : Option Params :=
  if h : p.Valid then some { raw := p, valid := h } else none

/-- The example configuration as parameters. -/
def Params.sample : Params where
  raw := RawParams.sample
  valid := by decide

/-- UNITS (R9). -/
def unitCount : Nat := 8

/-- TOTAL_BLOCKS (R9). -/
def totalBlocks : Nat := 8

/-- Pulse words of the whole pulse memory (R52). -/
def Params.pramWords (p : Params) : Nat := p.raw.ppb * totalBlocks

/-- Bytes of the frame memory (R53). -/
def Params.frameBytes (p : Params) : Nat := 3 * p.raw.maxPixels

/-- How many bytes a bus access moves (R73). -/
inductive Width where
  | byte
  | half
  | word
deriving DecidableEq, Repr

/-- The number of bytes, `n` of R73. -/
def Width.bytes : Width → Nat
  | .byte => 1
  | .half => 2
  | .word => 4

/-- A bus access of the host (R73): an address of the 18-bit engine address space (R70), and for a write the value, of which the
access uses its low `n` bytes. -/
inductive Access where
  | read (width : Width) (addr : BitVec 18)
  | write (width : Width) (addr : BitVec 18) (value : Word)
deriving DecidableEq, Repr

/-- Which agent takes a step (R7, R82), or the reset input (R240). -/
inductive Turn where
  /-- the host -/
  | host
  /-- transmitter unit `u` -/
  | unit (u : Fin 8)
  /-- the service agent, choosing unit `u` (R214) -/
  | service (u : Fin 8)
  /-- the reset input; the host then runs `program`, its old program being abandoned (R240) -/
  | reset (program : List Access)
deriving DecidableEq, Repr, Inhabited

/-- The parameters of the machine after reset: any that meet R9. Free value (log 1). -/
opaque Config.params : Params

/-- The agent that takes the `k`-th step whose agent nothing else has chosen: the interleaving is free (R82). Free value (log 2). -/
opaque Config.freeTurn : Nat → Turn

end Sys2Proof
end

