-- ==== Sys2Proof/Machine/State.lean ====
section
/-! DEFINITION. The state of the engine (spec/10_state.md), as plain data: what the spec gives the machine, the host's program and
the order of the agents. Reset is spec/10_state.md R58. -/

namespace Sys2Proof.Machine

/-- What stops the machine. A model fault (R212) is first recorded in `State.modelFault`; the step after it, of whatever agent,
stops with the recorded kind, because the run has no meaning from there on (R15). -/
inductive Fault where
  /-- A PRAM word or FRAME byte never written was read (R54). Raised by a unit's fetch, by LOAD and by host reads. SAFE: the model
  stops where the hardware goes on with a value the spec does not give. -/
  | uninitRead
  /-- A unit fetched from the half that its pending refill will write (R163), or such a refill is served only after a second threshold
  event of the unit was lost (R220; log 12). Raised by a unit's fetch and by the meaning of EVENT.THR. SAFE: the model stops where the
  hardware sends stale pulses, or is one refill behind. -/
  | underrun
  /-- A pulse word of class HALF was fetched (R162). Raised by the meaning of PULSE.HALF. SAFE: the model stops where the hardware
  would drive a waveform the spec does not give. -/
  | unmodelledPulse
deriving DecidableEq, Repr

/-- Why an operation has no meaning. -/
inductive Refusal where
  /-- No meaning has been written for the operation. Raised by `exec`'s arm; no arm raises it. SAFE: nothing follows from it. -/
  | notModelled (mnemonic : String)
deriving DecidableEq, Repr

/-- The architectural faults (R211). The codes 0x09..0xFF are reserved and never raised, so no constructor stands for them. -/
inductive FaultCode where
  | illegalCommand
  | configError
  | notInitialized
  | reinit
  | sequenceError
  | frameTooLarge
  | badChannel
  | badAccess
deriving DecidableEq, Repr

/-- PHASE, the render sequencer's state (R30). -/
inductive RenderPhase where
  | idle
  | loaded
  | primed
  | armed
  | running
deriving DecidableEq, Repr

/-- SIG, a channel's completion signal (R41): none exists, created, given. -/
inductive Signal where
  | none
  | clear
  | set
deriving DecidableEq, Repr

/-- One phase of a waveform (R47): the level driven and for how many ticks. -/
structure WavePhase where
  level : Bool
  ticks : BitVec 15
deriving DecidableEq, Repr

/-- The send state of one logical channel (R34 to R41). LEN is the length of `enc` (R35). -/
structure Chan where
  /-- ENC: the channel's encode buffer -/
  enc : List Byte
  /-- POS: index of the next byte to encode -/
  pos : BitVec 18
  /-- DIRTY -/
  dirty : Bool
  /-- SEL: the half the next half-buffer write fills, `true` the upper one -/
  sel : Bool
  /-- BUF_VALID -/
  bufValid : Bool
  /-- IN_FLIGHT -/
  inFlight : Bool
  /-- SIG -/
  sig : Signal
deriving DecidableEq, Repr

/-- One transmitter unit: its configuration (R43, R44), pointers (R45), activity (R46), output record (R47) and its bits of
INT_RAW and INT_ENA (R49, R50). -/
structure TxUnit where
  /-- DIV -/
  div : BitVec 8
  /-- MEM_SIZE, in blocks -/
  memSize : BitVec 4
  /-- IDLE_LEVEL -/
  idleLevel : Bool
  /-- WRAP_EN -/
  wrapEn : Bool
  /-- USED -/
  used : Bool
  /-- ACTIVE -/
  active : Bool
  /-- the bound GPIO identifier -/
  gpio : BitVec 8
  /-- LCH, the logical channel mapped to the unit -/
  lch : Fin 8
  /-- TX_LIM -/
  txLim : BitVec 12
  /-- RDPTR -/
  rdptr : BitVec 12
  /-- CNT -/
  cnt : BitVec 12
  /-- WAVE, oldest phase first -/
  wave : List WavePhase
  /-- THR_RAW, END_RAW -/
  thrRaw : Bool
  endRaw : Bool
  /-- THR_ENA, END_ENA -/
  thrEna : Bool
  endEna : Bool
deriving DecidableEq, Repr

/-- The pulse memory and the frame memory, by byte addresses of the engine address space (R71): strictly rising addresses, and an
address is listed iff its initialised mark is set (R54). -/
abbrev Memory := List Host.Cell

/-- The canonical form of a memory: addresses strictly rising. No listed entry can equal what an unlisted address reads as, since
an unlisted address reads as no value. -/
abbrev Memory.wf (m : Memory) : Prop := m.Pairwise fun x y => x.1 < y.1

/-- The whole state. -/
structure State where
  /-- the machine's parameters (R9); no step changes them -/
  cfg : Params
  /-- FAULT.FCODE; `none` is code 0 (R26) -/
  fault : Option FaultCode
  /-- MODELFAULT with its kind; `none` is clear (R55, R212) -/
  modelFault : Option Fault
  /-- STATUS.INIT_DONE (R32) -/
  initDone : Bool
  /-- STATUS.PHASE (R30) -/
  phase : RenderPhase
  /-- CONFIG.NCH, CONFIG.BPC, CONFIG.WP (R27) -/
  nch : BitVec 4
  bpc : BitVec 4
  wp : BitVec 12
  /-- MAP: the unit of each logical channel (R28) -/
  map : Vector (Fin 8) 8
  /-- GPIO: the identifier of each logical channel (R33) -/
  gpio : Vector (BitVec 8) 8
  /-- the channels' send state, by logical channel (R34 to R41) -/
  chans : Vector Chan 8
  /-- the transmitter units (R43 to R50) -/
  units : Vector TxUnit 8
  /-- PRAM and FRAME (R52, R53) -/
  mem : Memory
  /-- the model's own: the unit whose pulse word is being executed (log 7) -/
  txUnit : Fin 8
  /-- the model's own: the channel whose WAIT holds the host (R186; log 5) -/
  hold : Option (Fin 8)
  /-- the model's own: the host's accesses still to come, in program order (R7; log 4) -/
  program : List Access
  /-- the model's own: what the host's reads have returned, oldest first (log 8) -/
  reads : List Word
  /-- the model's own: the agents of the coming steps, in order (R82; log 2) -/
  schedule : List Turn
  /-- the model's own: how many agents the free interleaving has chosen so far (log 2) -/
  choices : Nat
deriving DecidableEq, Repr

/-- What a step or a meaning answers. -/
abbrev Answer := Host.Outcome State Fault Refusal

/-- A channel's send state after reset (R58). -/
def Chan.reset : Chan where
  enc := []
  pos := 0#18
  dirty := false
  sel := false
  bufValid := false
  inFlight := false
  sig := .none

/-- A unit after reset (R58). -/
def TxUnit.reset : TxUnit where
  div := 0#8
  memSize := 0#4
  idleLevel := false
  wrapEn := false
  used := false
  active := false
  gpio := 0#8
  lch := 0
  txLim := 0#12
  rdptr := 0#12
  cnt := 0#12
  wave := []
  thrRaw := false
  endRaw := false
  thrEna := false
  endEna := false

/-- The state after reset of a machine with parameters `p` (R58, R241). The model's own fields are empty (DESIGN CHOICE: logs 2,
4, 5, 7, 8). -/
def State.resetWith (p : Params) : State where
  cfg := p
  fault := none
  modelFault := none
  initDone := false
  phase := .idle
  nch := 0#4
  bpc := 0#4
  wp := 0#12
  map := Vector.replicate 8 0
  gpio := Vector.replicate 8 0#8
  chans := Vector.replicate 8 Chan.reset
  units := Vector.replicate 8 TxUnit.reset
  mem := []
  txUnit := 0
  hold := none
  program := []
  reads := []
  schedule := []
  choices := 0

/-- The machine right after reset (R58); its parameters are any that meet R9 (log 1). -/
def State.reset : State := State.resetWith Config.params

end Sys2Proof.Machine
end

