-- ==== Sys2Proof/Machine/Ops.lean ====
section
/-! DEFINITION. The shared operations: reading and writing memory, channels and units; raising an architectural fault and a model
fault (spec/60_exceptions.md R210, R212); the guards every command passes (spec/30_encoding.md R111). -/

namespace Sys2Proof.Machine

/-! ### Memory -/

/-- The byte at an address, if its initialised mark is set (R54). -/
def Memory.read : Memory → Nat → Option Byte
  | [], _ => none
  | (k, b) :: m, a => if k = a then some b else Memory.read m a

/-- `m` with byte `b` written at `a`, whose mark is then set (R54). -/
def Memory.write : Memory → Nat → Byte → Memory
  | [], a, b => [(a, b)]
  | (k, c) :: m, a, b =>
    if a < k then (a, b) :: (k, c) :: m
    else if a = k then (a, b) :: m
    else (k, c) :: Memory.write m a b

/-- The `n` bytes from address `a` up, if all of them are initialised. -/
def Memory.readBytes (m : Memory) : Nat → Nat → Option (List Byte)
  | _, 0 => some []
  | a, n + 1 =>
    match Memory.read m a, Memory.readBytes m (a + 1) n with
    | some b, some bs => some (b :: bs)
    | _, _ => none

/-- `m` with a list of bytes written from address `a` up. -/
def Memory.writeBytes : Memory → Nat → List Byte → Memory
  | m, _, [] => m
  | m, a, b :: bs => Memory.writeBytes (Memory.write m a b) (a + 1) bs

/-- The low `n` bytes of a value, lowest first (R74). -/
def splitBytes : Nat → Word → List Byte
  | 0, _ => []
  | n + 1, v => bits v 0 8 :: splitBytes n (v >>> 8)

/-- The value of a list of bytes, lowest first (R74). -/
def joinBytes : List Byte → Word
  | [] => 0#32
  | b :: bs => b.setWidth 32 ||| joinBytes bs <<< 8

/-- The 32-bit word at address `a`, if initialised. -/
def Memory.readWord (m : Memory) (a : Nat) : Option Word := (Memory.readBytes m a 4).map joinBytes

/-- `m` with words written one after the other from address `a` up. -/
def Memory.writeWords : Memory → Nat → List Word → Memory
  | m, _, [] => m
  | m, a, w :: ws => Memory.writeWords (Memory.writeBytes m a (splitBytes 4 w)) (a + 4) ws

/-- The address of pulse word `w` in the engine address space (R71; log 9). -/
def pramAddr (w : Nat) : Nat := 0x1000 + 4 * w

/-- The address of frame byte `k` in the engine address space (R71). -/
def frameAddr (k : Nat) : Nat := 0x10000 + k

/-! ### Channels and units -/

/-- The eight channel and unit indices. -/
def indices : List (Fin 8) := [0, 1, 2, 3, 4, 5, 6, 7]

/-- Channel `i`'s send state. -/
def State.chan (s : State) (i : Fin 8) : Chan := s.chans[i]

/-- Unit `u`. -/
def State.unit (s : State) (u : Fin 8) : TxUnit := s.units[u]

/-- MAP[i]. -/
def State.unitOf (s : State) (i : Fin 8) : Fin 8 := s.map[i]

/-- CH_OF(u), read from UNIT_CONF[u].LCH (R56; for an unused unit: log 15). -/
def State.chanOf (s : State) (u : Fin 8) : Fin 8 := (s.unit u).lch

/-- `s` with every channel `i` replaced by `f i` of it. -/
def State.updChans (s : State) (f : Fin 8 → Chan → Chan) : State :=
  { s with chans := Vector.ofFn fun i => f i (s.chan i) }

/-- `s` with every unit `u` replaced by `f u` of it. -/
def State.updUnits (s : State) (f : Fin 8 → TxUnit → TxUnit) : State :=
  { s with units := Vector.ofFn fun u => f u (s.unit u) }

/-- `s` with channel `i` replaced by `f` of it. -/
def State.updChan (s : State) (i : Fin 8) (f : Chan → Chan) : State :=
  s.updChans fun j c => if j = i then f c else c

/-- `s` with unit `u` replaced by `f` of it. -/
def State.updUnit (s : State) (u : Fin 8) (f : TxUnit → TxUnit) : State :=
  s.updUnits fun v t => if v = u then f t else t

/-- N, the configured channel count (R10, R27). -/
def State.chanCount (s : State) : Nat := s.nch.toNat

/-- LEN[i] (R35). -/
def Chan.len (c : Chan) : Nat := c.enc.length

/-- BPH, the bytes one half-buffer write encodes (R10). -/
def State.halfBytes (s : State) : Nat := s.wp.toNat / 8

/-- BASE(u), the first pulse word of unit `u`'s region (R76). -/
def State.base (s : State) (u : Fin 8) : Nat := s.cfg.raw.ppb * u.val

/-- The length of unit `u`'s region in pulse words (R76). -/
def State.regionWords (s : State) (u : Fin 8) : Nat := s.cfg.raw.ppb * (s.unit u).memSize.toNat

/-- The pulse word `w` of PRAM, if initialised (R52, R54). -/
def State.pram (s : State) (w : Nat) : Option Word := Memory.readWord s.mem (pramAddr w)

/-- Whether unit `u` serves a configured channel: `u = MAP[i]` for some `i < N`. -/
def State.serves (s : State) (u : Fin 8) : Bool :=
  indices.any fun i => decide (i.val < s.chanCount) && decide (s.unitOf i = u)

/-- `f` done for every channel `i < N`, in rising order (the loops of R156). -/
def State.forChannels (s : State) (f : State → Fin 8 → State) : State :=
  indices.foldl (fun t i => if i.val < s.chanCount then f t i else t) s

/-- Whether every configured channel's buffer has been freed (R186). -/
def State.allReleased (s : State) : Bool :=
  indices.all fun i => !decide (i.val < s.chanCount) || !(s.chan i).bufValid

/-- The level of a used unit's line while it does not transmit (R48); of any other unit the spec says nothing. -/
def State.restLine (s : State) (u : Fin 8) : Option Bool :=
  if (s.unit u).used && !(s.unit u).active then some (s.unit u).idleLevel else none

/-! ### Faults -/

/-- HALTED (R55). -/
def State.halted (s : State) : Bool := s.fault.isSome

/-- `s` with an architectural fault recorded: the first one stays, and nothing else changes (R210). -/
def State.recordFault (s : State) (code : FaultCode) : State :=
  match s.fault with
  | none => { s with fault := some code }
  | some _ => s

/-- `raise Fault(code)` (R15, R210): the only entry the engine has for an error; it has no handler and no return, and only reset
clears it. -/
def raiseFault (code : FaultCode) (s : State) : Answer := .next (s.recordFault code)

/-- `raise ModelFault(kind)` (R15, R212): the mark is set, nothing else changes, and the next step stops (log 6). -/
def raiseModelFault (kind : Fault) (s : State) : Answer := .next { s with modelFault := some kind }

/-- A command that is legal before INIT: ignored while HALTED (R55, R111). -/
def guardHalted (s : State) (run : Answer) : Answer :=
  if s.halted then .next s else run

/-- A command that needs INIT: ignored while HALTED, then NOT_INITIALIZED (R32, R111). -/
def guardReady (s : State) (run : Answer) : Answer :=
  guardHalted s (if s.initDone then run else raiseFault .notInitialized s)

/-- `s` with a value returned to the host (R73; log 8). -/
def State.returnRead (s : State) (v : Word) : State := { s with reads := s.reads ++ [v] }

end Sys2Proof.Machine
end

