-- ==== Sys2Proof/Machine/Flags.lean ====
section
/-! DEFINITION. The computed flags: fault codes, STATUS (spec/10_state.md R25), CH_FLAGS (R42), the interrupt words (R49 to R51),
which event of a unit is eligible for service (spec/60_exceptions.md R214) and the underrun test (spec/41_arbiter.md R163). -/

namespace Sys2Proof.Machine

/-- A field `v` placed from bit `lo` up of a register (R13). -/
def place {n : Nat} (lo : Nat) (v : BitVec n) : Word := v.setWidth 32 <<< lo

/-- A one-bit field at bit `i` of a register. -/
def placeBit (i : Nat) (b : Bool) : Word := place i (BitVec.ofBool b)

/-- The bits `lo + u` of a register, one for each unit or channel. -/
def placeBits (lo : Nat) (f : Fin 8 → Bool) : Word :=
  indices.foldl (fun w u => w ||| placeBit (lo + u.val) (f u)) 0#32

/-- The code of a fault (R211). -/
def FaultCode.code : FaultCode → BitVec 8
  | .illegalCommand => 0x01#8
  | .configError => 0x02#8
  | .notInitialized => 0x03#8
  | .reinit => 0x04#8
  | .sequenceError => 0x05#8
  | .frameTooLarge => 0x06#8
  | .badChannel => 0x07#8
  | .badAccess => 0x08#8

/-- FCODE (R26). -/
def State.faultCode (s : State) : BitVec 8 :=
  match s.fault with
  | none => 0x00#8
  | some c => c.code

/-- The number of a render phase (R30). -/
def RenderPhase.code : RenderPhase → BitVec 3
  | .idle => 0#3
  | .loaded => 1#3
  | .primed => 2#3
  | .armed => 3#3
  | .running => 4#3

/-- The number of a signal (R41). -/
def Signal.code : Signal → BitVec 2
  | .none => 0#2
  | .clear => 1#2
  | .set => 2#2

/-- BUSY: some configured channel is in flight (R25). -/
def State.busy (s : State) : Bool :=
  indices.any fun i => decide (i.val < s.chanCount) && (s.chan i).inFlight

/-- STATUS (R25). -/
def State.statusWord (s : State) : Word :=
  placeBit 0 s.initDone ||| place 1 s.phase.code ||| placeBit 4 s.halted ||| placeBit 5 s.busy

/-- CH_FLAGS (R42). -/
def Chan.flagsWord (c : Chan) : Word :=
  placeBit 0 c.dirty ||| placeBit 1 c.sel ||| place 2 c.sig.code ||| placeBit 4 c.bufValid ||| placeBit 5 c.inFlight

/-- INT_RAW (R49). -/
def State.intRaw (s : State) : Word :=
  placeBits 0 (fun u => (s.unit u).thrRaw) ||| placeBits 8 (fun u => (s.unit u).endRaw)

/-- INT_ENA (R50). -/
def State.intEna (s : State) : Word :=
  placeBits 0 (fun u => (s.unit u).thrEna) ||| placeBits 8 (fun u => (s.unit u).endEna)

/-- INT_ST (R51). -/
def State.intSt (s : State) : Word := s.intRaw &&& s.intEna

/-- THR(u) is pending (R51), and then eligible (R214). -/
def TxUnit.thrPending (t : TxUnit) : Bool := t.thrRaw && t.thrEna

/-- END(u) is pending (R51). -/
def TxUnit.endPending (t : TxUnit) : Bool := t.endRaw && t.endEna

/-- The number of unit `u`'s eligible event, if it has one: THR when pending; END when pending and THR_RAW = 0 (R214). -/
def State.eligibleEvent (s : State) (u : Fin 8) : Option (BitVec 4) :=
  if (s.unit u).thrPending then some (packEvent false u)
  else if (s.unit u).endPending && !(s.unit u).thrRaw then some (packEvent true u)
  else none

/-- The half of its region unit `u` reads next, `h` of R159. -/
def State.halfRead (s : State) (u : Fin 8) : Nat := (s.unit u).rdptr.toNat / s.wp.toNat

/-- The underrun test of a fetch (R159, R163): the unit's threshold event is pending and the half read is the one its refill will
write. -/
def State.underrun (s : State) (u : Fin 8) : Bool :=
  (s.unit u).thrRaw && decide (s.halfRead u = (s.chan (s.chanOf u)).sel.toNat)

/-- The refill of unit `u`'s pending threshold event would write the half the unit reads: the unit has reached its limit again since
that event, so a second event was lost (R49, R164). -/
def State.refillLate (s : State) (u : Fin 8) : Bool := (s.unit u).active && s.underrun u

end Sys2Proof.Machine
end

