-- ==== Sys2Proof/Machine/Operands.lean ====
section
/-! DEFINITION. What a bus access names: the register map (spec/10_state.md R22) with each register's value, and the regions,
widths and alignment of the address space (spec/20_memory.md R71, R72, R75). -/

namespace Sys2Proof.Machine

/-- The registers of R22. -/
inductive Reg where
  | id
  | cmd
  | status
  | fault
  | config
  | map
  | param0
  | param1
  | t0
  | t1
  | trst
  | gpio (i : Fin 8)
  | chLen (i : Fin 8)
  | chPos (i : Fin 8)
  | chFlags (i : Fin 8)
  | chReserved (i : Fin 8)
  | intRaw
  | intEna
  | intSt
  | unitConf (u : Fin 8)
  | unitTxlim (u : Fin 8)
  | unitPtr (u : Fin 8)
deriving DecidableEq, Repr

/-- Index `k` of a bank of eight registers. -/
def bankIndex (k : Nat) : Fin 8 := Fin.ofNat 8 k

/-- The register at a channel bank's offset `k` from 0x080 (R22, R42). -/
def chanReg (k : Nat) : Reg :=
  match k % 16 / 4 with
  | 0 => .chLen (bankIndex (k / 16))
  | 1 => .chPos (bankIndex (k / 16))
  | 2 => .chFlags (bankIndex (k / 16))
  | _ => .chReserved (bankIndex (k / 16))

/-- The register at a 4-byte aligned offset of REG, if one is listed there (R22). -/
def regAt (o : Nat) : Option Reg :=
  if o = 0x000 then some .id
  else if o = 0x004 then some .cmd
  else if o = 0x008 then some .status
  else if o = 0x00C then some .fault
  else if o = 0x010 then some .config
  else if o = 0x014 then some .map
  else if o = 0x018 then some .param0
  else if o = 0x01C then some .param1
  else if o = 0x020 then some .t0
  else if o = 0x024 then some .t1
  else if o = 0x028 then some .trst
  else if 0x040 ≤ o ∧ o < 0x060 then some (.gpio (bankIndex ((o - 0x040) / 4)))
  else if 0x080 ≤ o ∧ o < 0x100 then some (chanReg (o - 0x080))
  else if o = 0x100 then some .intRaw
  else if o = 0x104 then some .intEna
  else if o = 0x108 then some .intSt
  else if 0x140 ≤ o ∧ o < 0x160 then some (.unitConf (bankIndex ((o - 0x140) / 4)))
  else if 0x160 ≤ o ∧ o < 0x180 then some (.unitTxlim (bankIndex ((o - 0x160) / 4)))
  else if 0x180 ≤ o ∧ o < 0x1A0 then some (.unitPtr (bankIndex ((o - 0x180) / 4)))
  else none

/-- What a legal bus access reaches. -/
inductive Target where
  /-- a register -/
  | reg (r : Reg)
  /-- a pulse word, by its index -/
  | pram (w : Nat)
  /-- frame bytes, by the index of the first -/
  | frame (k : Nat)
deriving DecidableEq, Repr

/-- The region, width and alignment check of an access (R71, R72, R75); `none` is a BAD_ACCESS. Whether the target takes a write is
decided where it is written. -/
def busTarget (p : Params) (width : Width) (addr : BitVec 18) : Option Target :=
  let a := addr.toNat
  if a % width.bytes ≠ 0 then none
  else if a < 0x1000 then
    if width = .word then (regAt a).map .reg else none
  else if a < 0x2000 then
    if width = .word ∧ a < pramAddr p.pramWords then some (.pram ((a - 0x1000) / 4)) else none
  else if a < 0x10000 then none
  else if a + width.bytes ≤ frameAddr p.frameBytes then some (.frame (a - 0x10000))
  else none

/-- UNIT_CONF (R43). -/
def TxUnit.confWord (t : TxUnit) : Word :=
  place 0 t.div ||| place 8 t.memSize ||| placeBit 12 t.idleLevel ||| placeBit 13 t.wrapEn ||| placeBit 14 t.used |||
  placeBit 15 t.active ||| place 16 t.gpio ||| place 24 (BitVec.ofNat 3 t.lch.val)

/-- MAP (R28). -/
def State.mapWord (s : State) : Word :=
  indices.foldl (fun w i => w ||| place (4 * i.val) (BitVec.ofNat 3 (s.unitOf i).val)) 0#32

/-- The value of a register (R23 to R33, R42 to R51). -/
def State.readReg (s : State) : Reg → Word
  | .id => 0x57532811#32
  | .cmd => 0#32
  | .status => s.statusWord
  | .fault => place 0 s.faultCode
  | .config => place 0 s.nch ||| place 4 s.bpc ||| place 8 s.wp
  | .map => s.mapWord
  | .param0 =>
    place 0 (BitVec.ofNat 8 s.cfg.raw.ppb) ||| place 8 (BitVec.ofNat 8 unitCount) |||
    place 16 (BitVec.ofNat 8 totalBlocks) ||| place 24 s.cfg.raw.clkDiv
  | .param1 => place 0 (BitVec.ofNat 16 s.cfg.raw.maxPixels)
  | .t0 => place 0 s.cfg.raw.t0h ||| place 16 s.cfg.raw.t0l
  | .t1 => place 0 s.cfg.raw.t1h ||| place 16 s.cfg.raw.t1l
  | .trst => place 0 s.cfg.raw.treset
  | .gpio i => place 0 s.gpio[i]
  | .chLen i => place 0 (BitVec.ofNat 18 (s.chan i).len)
  | .chPos i => place 0 (s.chan i).pos
  | .chFlags i => (s.chan i).flagsWord
  | .chReserved _ => 0#32
  | .intRaw => s.intRaw
  | .intEna => s.intEna
  | .intSt => s.intSt
  | .unitConf u => (s.unit u).confWord
  | .unitTxlim u => place 0 (s.unit u).txLim
  | .unitPtr u => place 0 (s.unit u).rdptr ||| place 16 (s.unit u).cnt

end Sys2Proof.Machine
end

