-- ==== Sys2Proof/Machine/Encoder.lean ====
section
/-! DEFINITION. The pulse encoder, the channel partition and LOAD (spec/40_encoder.md). -/

namespace Sys2Proof.Machine

/-- `pulse(b)` (R107, R130). -/
def pulse (p : Params) (b : Bool) : Word :=
  packPulse true (if b then p.raw.t1h else p.raw.t0h) false (if b then p.raw.t1l else p.raw.t0l)

/-- `pulse_last(b)`: the low phase is the reset duration (R107). -/
def pulseLast (p : Params) (b : Bool) : Word :=
  packPulse true (if b then p.raw.t1h else p.raw.t0h) false p.raw.treset

/-- The bit positions of a byte in the order they are sent, most significant first (R131). -/
def bitOrder : List Nat := [7, 6, 5, 4, 3, 2, 1, 0]

/-- `encode_byte(x, last)` (R131). -/
def encodeByte (p : Params) (x : Byte) (last : Bool) : List Word :=
  bitOrder.map fun k => if last && decide (k = 0) then pulseLast p (bit x k) else pulse p (bit x k)

/-- The pulse words of the bytes `xs` that stand at index `k` and above in a channel's buffer of `len` bytes; the byte at index
`len - 1` is the last one (R131, R134). -/
def encodeBytes (p : Params) (len : Nat) : Nat → List Byte → List Word
  | _, [] => []
  | k, x :: xs => encodeByte p x (decide (k + 1 = len)) ++ encodeBytes p len (k + 1) xs

/-- STREAM of a channel's buffer (R134). -/
def stream (p : Params) (enc : List Byte) : List Word := encodeBytes p enc.length 0 enc

/-- The two phases of a pulse word (R135, R160). -/
def wordPhases (w : Word) : List WavePhase :=
  [{ level := bit w 15, ticks := bits w 0 15 }, { level := bit w 31, ticks := bits w 16 15 }]

/-- EXPECTED of a channel's buffer (R135). -/
def expected (p : Params) (enc : List Byte) : List WavePhase := (stream p enc).flatMap wordPhases

/-- `lo(i)` of a frame of `P` pixels on `N` channels (R132); `hi(i)` is `lo(i + 1)`. -/
def partLo (pixels n i : Nat) : Nat := i * pixels / n

/-- The bytes of channel `i` (R133). -/
def chanBytes (frame : List Byte) (pixels n i : Nat) : List Byte :=
  (frame.drop (3 * partLo pixels n i)).take (3 * (partLo pixels n (i + 1) - partLo pixels n i))

/-- A channel's send state after LOAD gave it the buffer `enc` (R137). -/
def Chan.loadBuffer (c : Chan) (enc : List Byte) : Chan :=
  { c with enc := enc, pos := 0#18, dirty := true, sel := false, bufValid := true }

/-- The effect of a LOAD of `pixels` pixels whose bytes are `frame` (R137). -/
def State.loadFrame (s : State) (pixels : Nat) (frame : List Byte) : State :=
  { s.updChans (fun i c =>
      if i.val < s.chanCount then c.loadBuffer (chanBytes frame pixels s.chanCount i.val) else c) with
    phase := .loaded }

/-- LOAD (R137). -/
def execLoad (p : BitVec 16) (s : State) : Answer :=
  guardReady s
    (if s.phase ≠ .idle then raiseFault .sequenceError s
     else if s.cfg.raw.maxPixels < p.toNat then raiseFault .frameTooLarge s
     else
      match Memory.readBytes s.mem (frameAddr 0) (3 * p.toNat) with
      | none => raiseModelFault .uninitRead s
      | some frame => .next (s.loadFrame p.toNat frame))

end Sys2Proof.Machine
end

