-- ==== Sys2Proof/Machine/Arbiter.lean ====
section
/-! DEFINITION. The dual-buffer pulse-memory arbiter: the half-buffer write, PRIME, and the pulse words a transmitter unit executes
(spec/41_arbiter.md). -/

namespace Sys2Proof.Machine

/-- How many bytes the next half-buffer write of a channel encodes: `n` of R150. -/
def State.copyCount (s : State) (c : Chan) : Nat := min s.halfBytes (c.len - c.pos.toNat)

/-- The words of a half that takes live data: the encoded bytes, then END words to the end of the half (R150, case (a) of R151). -/
def State.dataWords (s : State) (c : Chan) : List Word :=
  encodeBytes s.cfg c.len c.pos.toNat ((c.enc.drop c.pos.toNat).take (s.copyCount c)) ++
    List.replicate (s.wp.toNat - 8 * s.copyCount c) 0#32

/-- The words the next half-buffer write of a channel writes: live data, one flush, or nothing (R151). -/
def State.copyWords (s : State) (c : Chan) : List Word :=
  if c.pos.toNat < c.len then s.dataWords c
  else if c.dirty then List.replicate s.wp.toNat 0#32
  else []

/-- A channel's send state after its next half-buffer write (R150). -/
def State.copiedChan (s : State) (c : Chan) : Chan :=
  { c with
    pos := if c.pos.toNat < c.len then BitVec.ofNat 18 (c.pos.toNat + s.copyCount c) else c.pos
    dirty := decide (c.pos.toNat < c.len)
    sel := !c.sel }

/-- The first pulse word of the half that channel `i`'s next half-buffer write fills: `base` of R150 (R76). -/
def State.copyBase (s : State) (i : Fin 8) : Nat :=
  s.base (s.unitOf i) + (if (s.chan i).sel then s.wp.toNat else 0)

/-- `copy(i)`, the half-buffer write (R150). -/
def State.copy (s : State) (i : Fin 8) : State :=
  { s.updChan i s.copiedChan with
    mem := Memory.writeWords s.mem (pramAddr (s.copyBase i)) (s.copyWords (s.chan i)) }

/-- The effect of PRIME: two half-buffer writes of every configured channel (R156). -/
def State.primeAll (s : State) : State :=
  { s.forChannels (fun t i => (t.copy i).copy i) with phase := .primed }

/-- PRIME (R156). -/
def execPrime (s : State) : Answer :=
  guardReady s (if s.phase ≠ .loaded then raiseFault .sequenceError s else .next s.primeAll)

/-- The unit after a DATA word: two phases driven, the read pointer advanced round the region of `region` words, the word counted
toward the threshold (R160). An event raised while the last one is pending is lost (R49); log 12 says what follows the loss. -/
def TxUnit.sendData (t : TxUnit) (region : Nat) (first second : WavePhase) : TxUnit :=
  { t with
    wave := t.wave ++ [first, second]
    rdptr := BitVec.ofNat 12 ((t.rdptr.toNat + 1) % region)
    cnt := if t.cnt.toNat + 1 = t.txLim.toNat then 0#12 else BitVec.ofNat 12 (t.cnt.toNat + 1)
    thrRaw := t.thrRaw || decide (t.cnt.toNat + 1 = t.txLim.toNat) }

/-- PULSE.DATA, executed by the unit that fetched it (R160). -/
def execPulseData (lvl0 : Bool) (dur0 : BitVec 15) (lvl1 : Bool) (dur1 : BitVec 15) (s : State) : Answer :=
  .next (s.updUnit s.txUnit fun t =>
    t.sendData (s.regionWords s.txUnit) { level := lvl0, ticks := dur0 } { level := lvl1, ticks := dur1 })

/-- The unit after an END word (R161). -/
def TxUnit.stop (t : TxUnit) : TxUnit := { t with active := false, endRaw := true }

/-- PULSE.END, executed by the unit that fetched it (R161). -/
def execPulseEnd (s : State) : Answer := .next (s.updUnit s.txUnit TxUnit.stop)

/-- PULSE.HALF: the spec gives the word no meaning beyond its model fault (R162, R212). -/
def execPulseHalf (s : State) : Answer := raiseModelFault .unmodelledPulse s

end Sys2Proof.Machine
end

