-- ==== Sys2Proof/Machine/Control.lean ====
section
/-! DEFINITION. The channel-to-unit mapping, INIT, and the commands ARM, START, WAIT and NOP (spec/42_control.md). -/

namespace Sys2Proof.Machine

/-- `map_N(i)` (R180). -/
def mapUnit (n : Nat) (i : Fin 8) : Fin 8 := Fin.ofNat 8 (i.val * (unitCount / n))

/-- The channel that `map_N` sends to unit `u`, if there is one (R180, R181). -/
def mappedChan (n : Nat) (u : Fin 8) : Option (Fin 8) :=
  indices.find? fun i => decide (i.val < n) && decide (mapUnit n i = u)

/-- BPC of `n` channels (R10). -/
def blocksPerChan (n : Nat) : Nat := totalBlocks / n

/-- WP of `n` channels (R10). -/
def writePulses (p : Params) (n : Nat) : Nat := p.raw.ppb * blocksPerChan n / 2

/-- The configuration INIT writes into the unit of channel `i` (R181). -/
def TxUnit.configure (t : TxUnit) (p : Params) (n : Nat) (i : Fin 8) (gpio : BitVec 8) : TxUnit :=
  { t with
    div := p.raw.clkDiv
    memSize := BitVec.ofNat 4 (blocksPerChan n)
    idleLevel := false
    wrapEn := true
    used := true
    active := false
    gpio := gpio
    lch := i
    txLim := BitVec.ofNat 12 (writePulses p n)
    thrEna := true
    endEna := true }

/-- The effect of a legal INIT of `nch` channels (R181). -/
def State.initialise (s : State) (nch : BitVec 4) : State :=
  { s.updUnits (fun u t =>
      match mappedChan nch.toNat u with
      | some i => t.configure s.cfg nch.toNat i s.gpio[i]
      | none => t) with
    initDone := true
    nch := nch
    bpc := BitVec.ofNat 4 (blocksPerChan nch.toNat)
    wp := BitVec.ofNat 12 (writePulses s.cfg nch.toNat)
    map := Vector.ofFn fun i => if i.val < nch.toNat then mapUnit nch.toNat i else s.unitOf i }

/-- Whether INIT accepts its operands: `nch` divides TOTAL_BLOCKS and the GPIO list has that length (R181). -/
def legalConfig (nch ngpio : BitVec 4) : Bool :=
  nch != 0#4 && decide (totalBlocks % nch.toNat = 0) && ngpio == nch

/-- INIT (R181). -/
def execInit (nch ngpio : BitVec 4) (s : State) : Answer :=
  guardHalted s
    (if s.initDone then raiseFault .reinit s
     else if legalConfig nch ngpio then .next (s.initialise nch)
     else raiseFault .configError s)

/-- The effect of ARM: a completion signal for every configured channel (R184). -/
def State.armAll (s : State) : State :=
  { s.updChans (fun i c => if i.val < s.chanCount then { c with sig := .clear } else c) with phase := .armed }

/-- ARM (R184). -/
def execArm (s : State) : Answer :=
  guardReady s (if s.phase ≠ .primed then raiseFault .sequenceError s else .next s.armAll)

/-- A unit as START leaves it (R185). -/
def TxUnit.launch (t : TxUnit) : TxUnit :=
  { t with rdptr := 0#12, cnt := 0#12, thrRaw := false, endRaw := false, active := true }

/-- The effect of START: every configured channel's unit runs (R185). -/
def State.startAll (s : State) : State :=
  { (s.updUnits fun u t => if s.serves u then t.launch else t).updChans
      (fun i c => if i.val < s.chanCount then { c with inFlight := true } else c) with
    phase := .running }

/-- START (R185). -/
def execStart (s : State) : Answer :=
  guardReady s (if s.phase ≠ .armed then raiseFault .sequenceError s else .next s.startAll)

/-- A channel as its WAIT leaves it: signal destroyed, buffer freed (R186). -/
def Chan.release (c : Chan) : Chan := { c with sig := .none, bufValid := false }

/-- The effect of a WAIT whose signal is given; the host is held no longer, and the last release ends the render (R186). -/
def State.release (s : State) (ch : Fin 8) : State :=
  let t := s.updChan ch Chan.release
  { t with
    hold := none
    phase := if t.allReleased then .idle else t.phase }

/-- A WAIT past its checks: the channel is released if its signal is given, else the host is held (R186; log 5). -/
def State.awaitSignal (s : State) (ch : Fin 8) : State :=
  if (s.chan ch).sig = .set then s.release ch else { s with hold := some ch }

/-- WAIT (R186). -/
def execWait (ch : Fin 8) (s : State) : Answer :=
  guardReady s
    (if s.phase ≠ .running then raiseFault .sequenceError s
     else if s.chanCount ≤ ch.val then raiseFault .badChannel s
     else if (s.chan ch).bufValid then .next (s.awaitSignal ch)
     else raiseFault .sequenceError s)

/-- NOP (R187). -/
def execNop (s : State) : Answer := guardHalted s (.next s)

end Sys2Proof.Machine
end

