-- ==== Sys2Proof/Machine/Service.lean ====
section
/-! DEFINITION. The service of the interrupt events (spec/60_exceptions.md R214 to R220). A service step saves nothing, masks
nothing and returns nowhere: the step is the handler (R219, R220). -/

namespace Sys2Proof.Machine

/-- SERVE_THR(u): refill the consumed half, clear the raw bit (R215). -/
def State.serveThr (s : State) (u : Fin 8) : State :=
  (s.copy (s.chanOf u)).updUnit u fun t => { t with thrRaw := false }

/-- EVENT.THR (R215). DESIGN CHOICE (log 12): a refill that comes too late, after a second event of the unit was lost, is an UNDERRUN,
so that no run goes on after a loss without a model fault (R164, R166, R220). -/
def execEventThr (u : Fin 8) (s : State) : Answer :=
  if s.refillLate u then raiseModelFault .underrun s else .next (s.serveThr u)

/-- A channel whose completion signal is given (R216). -/
def Chan.complete (c : Chan) : Chan := { c with inFlight := false, sig := .set }

/-- SERVE_END(u): clear the raw bit, give the channel's completion signal (R216). -/
def State.serveEnd (s : State) (u : Fin 8) : State :=
  (s.updChan (s.chanOf u) Chan.complete).updUnit u fun t => { t with endRaw := false }

/-- EVENT.END (R216). -/
def execEventEnd (u : Fin 8) (s : State) : Answer := .next (s.serveEnd u)

end Sys2Proof.Machine
end

