-- ==== Sys2Proof/Machine/Dispatch.lean ====
section
/-! DEFINITION. The meaning of every operation: one arm per row of spec/opcode_table.json, each one call. -/

namespace Sys2Proof.Machine

def exec (i : Instr) (s : State) : Host.Outcome State Fault Refusal :=
  match i with
  | .nop => Sys2Proof.Machine.execNop s
  | .init nch ngpio => Sys2Proof.Machine.execInit nch ngpio s
  | .load p => Sys2Proof.Machine.execLoad p s
  | .prime => Sys2Proof.Machine.execPrime s
  | .arm => Sys2Proof.Machine.execArm s
  | .start => Sys2Proof.Machine.execStart s
  | .wait ch => Sys2Proof.Machine.execWait ch s
  | .pulseData lvl0 dur0 lvl1 dur1 => Sys2Proof.Machine.execPulseData lvl0 dur0 lvl1 dur1 s
  | .pulseEnd _ => Sys2Proof.Machine.execPulseEnd s
  | .pulseHalf _ _ _ => Sys2Proof.Machine.execPulseHalf s
  | .eventThr u => Sys2Proof.Machine.execEventThr u s
  | .eventEnd u => Sys2Proof.Machine.execEventEnd u s

end Sys2Proof.Machine
end

