-- ==== Sys2Proof/Machine/Agents.lean ====
section
/-! DEFINITION. One step of each agent (spec/00_scope.md R7): the host's bus accesses (spec/20_memory.md R73), a unit's fetch
(spec/41_arbiter.md R159), the service agent's choice (spec/60_exceptions.md R214), the reset input (spec/70_reset_and_hazards.md
R240); and where a word must stand for an agent to take it next. An agent that is chosen while it has no enabled step passes
(log 3). -/

namespace Sys2Proof.Machine

/-! ### The host -/

/-- A 4-byte write of `w` to CMD (R24, R111). -/
def writeCommand (w : Word) (s : State) : Answer :=
  match decode (.cmd w) with
  | .ok i => exec i s
  | .error .illegalCommand => guardHalted s (raiseFault .illegalCommand s)

/-- A 4-byte write to GPIO[i] (R33, R188, R210). -/
def writeGpio (i : Fin 8) (w : Word) (s : State) : Answer :=
  guardHalted s
    (if s.initDone then raiseFault .badAccess s
     else .next { s with gpio := s.gpio.set i (bits w 0 8) })

/-- A write to a register (R22, R188). -/
def writeReg (r : Reg) (w : Word) (s : State) : Answer :=
  match r with
  | .cmd => writeCommand w s
  | .gpio i => writeGpio i w s
  | _ => raiseFault .badAccess s

/-- A read that is a BAD_ACCESS returns 0 (R72). -/
def badRead (s : State) : Answer := raiseFault .badAccess (s.returnRead 0#32)

/-- A value read, returned to the host; an uninitialised one is a model fault (R54, R73). -/
def returnValue (v : Option Word) (s : State) : Answer :=
  match v with
  | none => raiseModelFault .uninitRead s
  | some w => .next (s.returnRead w)

/-- MemRead (R73). -/
def busRead (width : Width) (addr : BitVec 18) (s : State) : Answer :=
  match busTarget s.cfg width addr with
  | none => badRead s
  | some (.reg r) => .next (s.returnRead (s.readReg r))
  | some (.pram w) => returnValue (s.pram w) s
  | some (.frame k) => returnValue ((Memory.readBytes s.mem (frameAddr k) width.bytes).map joinBytes) s

/-- MemWrite (R73). -/
def busWrite (width : Width) (addr : BitVec 18) (value : Word) (s : State) : Answer :=
  match busTarget s.cfg width addr with
  | none => raiseFault .badAccess s
  | some (.reg r) => writeReg r value s
  | some (.pram _) => raiseFault .badAccess s
  | some (.frame k) =>
    .next { s with mem := Memory.writeBytes s.mem (frameAddr k) (splitBytes width.bytes value) }

/-- A bus access (R73). -/
def busAccess (a : Access) (s : State) : Answer :=
  match a with
  | .read width addr => busRead width addr s
  | .write width addr value => busWrite width addr value s

/-- One step of the host: held in a WAIT it returns from it once the signal is given (R186), and otherwise has no step; free, it
issues its next access, if it has one. -/
def hostStep (s : State) : Answer :=
  match s.hold with
  | some ch => if (s.chan ch).sig = .set then .next (s.release ch) else .next s
  | none =>
    match s.program with
    | [] => .next s
    | a :: rest => busAccess a { s with program := rest }

/-! ### The transmitter units -/

/-- The index of the pulse word unit `u` fetches next (R158). -/
def State.fetchIndex (s : State) (u : Fin 8) : Nat := s.base u + (s.unit u).rdptr.toNat

/-- TxStep(u) (R159): enabled iff the unit is active (R158). -/
def unitStep (u : Fin 8) (s : State) : Answer :=
  if (s.unit u).active then
    if s.underrun u then raiseModelFault .underrun s
    else
      match s.pram (s.fetchIndex u) with
      | none => raiseModelFault .uninitRead s
      | some w => exec (decodePulse w) { s with txUnit := u }
  else .next s

/-! ### The service agent -/

/-- One step of the service agent at unit `u`: it takes the unit's eligible event, if there is one (R214). -/
def serviceStep (u : Fin 8) (s : State) : Answer :=
  match s.eligibleEvent u with
  | none => .next s
  | some e => exec (decodeEvent e) s

/-! ### Reset and the order of the agents -/

/-- The reset input (R240): the engine is as after reset; the machine's parameters and what is still to come from outside stay. -/
def State.restart (s : State) (program : List Access) : State :=
  { State.resetWith s.cfg with program := program, schedule := s.schedule, choices := s.choices }

/-- The agent of the next step: the first of the schedule, or one the free interleaving chooses (R82; log 2). -/
def State.nextTurn (s : State) : Turn :=
  match s.schedule with
  | t :: _ => t
  | [] => Config.freeTurn s.choices

/-- `s` with its next agent chosen. -/
def State.takeTurn (s : State) : State :=
  match s.schedule with
  | _ :: ts => { s with schedule := ts }
  | [] => { s with choices := s.choices + 1 }

/-- A step of an agent in a run that still has a meaning: one in which no model fault is marked (R212; log 6). -/
def guardModelFault (s : State) (run : Answer) : Answer :=
  match s.modelFault with
  | none => run
  | some kind => .fault kind

/-- The step of the agent `t` (R7), or the reset input (R240). -/
def turnStep (t : Turn) (s : State) : Answer :=
  match t with
  | .host => guardModelFault s (hostStep s)
  | .unit u => guardModelFault s (unitStep u s)
  | .service u => guardModelFault s (serviceStep u s)
  | .reset program => .next (s.restart program)

/-! ### Placing a word -/

/-- `s` with nothing in the way of the next step, which is `t`'s (log 14). -/
def State.giveTurn (s : State) (t : Turn) : State :=
  { s with modelFault := none, schedule := t :: s.schedule }

/-- `s` with a command word as the host's next access. -/
def State.placeCommand (s : State) (w : Word) : State :=
  { s.giveTurn .host with hold := none, program := .write .word 0x004#18 w :: s.program }

/-- `s` with unit 0 active and a pulse word where it fetches next. -/
def State.placePulse (s : State) (w : Word) : State :=
  { (s.giveTurn (.unit 0)).updUnit 0 (fun t => { t with active := true, thrRaw := false }) with
    mem := Memory.writeWords s.mem (pramAddr (s.fetchIndex 0)) [w] }

/-- A unit with exactly one of its events pending. -/
def TxUnit.pend (isEnd : Bool) (t : TxUnit) : TxUnit :=
  if isEnd then { t with endRaw := true, endEna := true, thrRaw := false } else { t with thrRaw := true, thrEna := true }

/-- `s` with an event pending and the service agent at its unit. -/
def State.placeEvent (s : State) (e : BitVec 4) : State :=
  (s.giveTurn (.service (bits e 0 3).toFin)).updUnit (bits e 0 3).toFin (TxUnit.pend (bit e 3))

/-- `s` with a word where the agent that takes it finds it (R100). -/
def State.placeWord (s : State) : RawWord → State
  | .cmd w => s.placeCommand w
  | .pulse w => s.placePulse w
  | .event e => s.placeEvent e

end Sys2Proof.Machine
end

