-- ==== Sys2Proof/Machine/Step.lean ====
section
/-! DEFINITION. One step of the machine: the next agent of the total order of steps (spec/20_memory.md R82) takes its step; and the
placing of a word of the opcode table where the next step takes it. -/

namespace Sys2Proof.Machine

/-- One step (R7, R16, R82). -/
def step (s : State) : Host.Outcome State Fault Refusal := turnStep s.nextTurn s.takeTurn

/-- `s` with the operation of a table word placed so that the very next step takes it (log 14); `s` itself if the number is no word
of the table. -/
def State.withFetchWord (s : State) (nbits w : Nat) : State :=
  match tableWord nbits w with
  | some r => s.placeWord r
  | none => s

end Sys2Proof.Machine
end

