-- ==== Sys2Proof/Safety.lean ====
section
/-! DEFINITION. What claims about the engine are stated in: which states are ordinary, when a run is over
(spec/60_exceptions.md R229), and the invariants that hold after reset and that every step keeps. -/

namespace Sys2Proof.Machine

/-- The channel counts the engine accepts (R11). -/
abbrev LegalCount (n : Nat) : Prop := n = 1 ∨ n = 2 ∨ n = 4 ∨ n = 8

/-- The engine takes commands: it is not HALTED and INIT has succeeded (R111). -/
abbrev State.Ready (s : State) : Prop := s.fault = none ∧ s.initDone = true

/-- A run is over: the host has no further command and is not held, every unit rests, nothing is pending, and no model fault is
marked (R229). -/
abbrev State.Finished (s : State) : Prop :=
  s.program = [] ∧ s.hold = none ∧ (∀ u, (s.unit u).active = false) ∧ s.intSt = 0#32 ∧ s.modelFault = none

/-! ### The configuration -/

/-- What INIT has written into the unit of channel `i` (R181). -/
abbrev State.UnitConfigured (s : State) (u i : Fin 8) : Prop :=
  (s.unit u).div = s.cfg.raw.clkDiv ∧ (s.unit u).memSize.toNat = 8 / s.chanCount ∧ (s.unit u).idleLevel = false ∧
  (s.unit u).wrapEn = true ∧ (s.unit u).used = true ∧ (s.unit u).gpio = s.gpio[i] ∧ (s.unit u).lch = i ∧
  (s.unit u).txLim = s.wp ∧ (s.unit u).thrEna = true ∧ (s.unit u).endEna = true

/-- The engine as INIT configures it: a legal channel count, the derived sizes, the mapping, every used unit configured, and every
other unit as after reset (R10, R180, R181). -/
abbrev State.Configured (s : State) : Prop :=
  LegalCount s.chanCount ∧ s.bpc.toNat = 8 / s.chanCount ∧ s.wp.toNat = s.cfg.raw.ppb * (8 / s.chanCount) / 2 ∧
  (∀ i, s.unitOf i = if i.val < s.chanCount then mapUnit s.chanCount i else 0) ∧
  (∀ i : Fin 8, i.val < s.chanCount → s.UnitConfigured (mapUnit s.chanCount i) i) ∧
  (∀ u, (∀ i : Fin 8, i.val < s.chanCount → mapUnit s.chanCount i ≠ u) → s.unit u = TxUnit.reset)

/-- The engine before INIT: nothing is configured, every unit as after reset (R58). -/
abbrev State.Unconfigured (s : State) : Prop :=
  s.nch = 0#4 ∧ s.bpc = 0#4 ∧ s.wp = 0#12 ∧ (∀ i, s.unitOf i = 0) ∧ (∀ u, s.unit u = TxUnit.reset)

/-- The configuration is INIT's once INIT_DONE is set, and none before (R32). -/
abbrev State.ConfigInv (s : State) : Prop :=
  (s.initDone = true → s.Configured) ∧ (s.initDone = false → s.Unconfigured)

/-! ### The memories -/

/-- The memory is canonical, and lists only addresses of the pulse memory and the frame memory (R71). -/
abbrev State.MemInv (s : State) : Prop :=
  Memory.wf s.mem ∧
  ∀ x ∈ s.mem, (pramAddr 0 ≤ x.1 ∧ x.1 < pramAddr s.cfg.pramWords) ∨
    (frameAddr 0 ≤ x.1 ∧ x.1 < frameAddr s.cfg.frameBytes)

/-! ### The channels and the units' pointers -/

/-- POS[i] <= LEN[i] <= 3 * MAX_PIXELS, and a channel that is not configured is as after reset (R35, R36, and the head of section 4
of spec/10_state.md). -/
abbrev State.ChanInv (s : State) : Prop :=
  ∀ i, (s.chan i).pos.toNat ≤ (s.chan i).len ∧ (s.chan i).len ≤ 3 * s.cfg.raw.maxPixels ∧
    (s.chanCount ≤ i.val → s.chan i = Chan.reset)

/-- RDPTR stays inside the unit's region and CNT below its limit (R45). -/
abbrev State.PointerInv (s : State) : Prop :=
  ∀ u, (s.unit u).used = true →
    (s.unit u).rdptr.toNat < s.regionWords u ∧ (s.unit u).cnt.toNat < (s.unit u).txLim.toNat

/-! ### The life of a channel -/

/-- A unit at rest with no event. -/
abbrev TxUnit.Quiet (t : TxUnit) : Prop := t.active = false ∧ t.thrRaw = false ∧ t.endRaw = false

/-- No buffer, no signal. -/
abbrev Chan.Free (c : Chan) : Prop := c.bufValid = false ∧ c.inFlight = false ∧ c.sig = .none

/-- A buffer, not in flight, with the given signal. -/
abbrev Chan.Waiting (c : Chan) (sig : Signal) : Prop := c.bufValid = true ∧ c.inFlight = false ∧ c.sig = sig

/-- A buffer in flight, its signal not given. -/
abbrev Chan.Flying (c : Chan) : Prop := c.bufValid = true ∧ c.inFlight = true ∧ c.sig = .clear

/-- Where a channel and its unit stand in a render: sending; stopped, its end event not served; its signal given; or released. -/
abbrev Chan.Running (c : Chan) (t : TxUnit) : Prop :=
  (c.Flying ∧ t.active = true ∧ t.endRaw = false) ∨ (c.Flying ∧ t.active = false ∧ t.endRaw = true) ∨
  (c.Waiting .set ∧ t.Quiet) ∨ (c.Free ∧ t.Quiet)

/-- As LOAD leaves it: nothing encoded yet, half 0 filled next, and a flush due if there are no data (R137). -/
abbrev Chan.Fresh (c : Chan) : Prop := c.pos = 0#18 ∧ c.dirty = true ∧ c.sel = false

/-- Where a configured channel and its unit stand, by the phase of the render (R30, R37 to R41, R46). -/
def RenderPhase.admits (p : RenderPhase) (c : Chan) (t : TxUnit) : Bool :=
  match p with
  | .idle => decide (c.Free ∧ t.Quiet)
  | .loaded => decide (c.Waiting .none ∧ c.Fresh ∧ t.Quiet)
  | .primed => decide (c.Waiting .none ∧ t.Quiet)
  | .armed => decide (c.Waiting .clear ∧ t.Quiet)
  | .running => decide (c.Running t)

/-- The life of every configured channel follows the render's phase; a running render has a channel still to release; the host is
held only on such a channel (R30, R40, R41, R186). -/
abbrev State.LifeInv (s : State) : Prop :=
  (s.initDone = false → s.phase = .idle) ∧
  (∀ i : Fin 8, i.val < s.chanCount → s.phase.admits (s.chan i) (s.unit (s.unitOf i)) = true) ∧
  (s.phase = .running → ∃ i : Fin 8, i.val < s.chanCount ∧ (s.chan i).bufValid = true) ∧
  (∀ ch, s.hold = some ch → s.phase = .running ∧ ch.val < s.chanCount ∧ (s.chan ch).bufValid = true)

/-! ### Which half is filled and which is read -/

/-- Before START every configured channel's selector names half 0; while a unit sends, its word count is its place in the half it
reads, and its channel's selector names that half if no refill is pending, the other half if one is (R38, R164). -/
abbrev State.HalfInv (s : State) : Prop :=
  ∀ i : Fin 8, i.val < s.chanCount →
    ((s.phase = .loaded ∨ s.phase = .primed ∨ s.phase = .armed) → (s.chan i).sel = false) ∧
    ((s.unit (s.unitOf i)).active = true →
      (s.unit (s.unitOf i)).cnt.toNat = (s.unit (s.unitOf i)).rdptr.toNat % s.wp.toNat ∧
      ((s.unit (s.unitOf i)).thrRaw = false → s.halfRead (s.unitOf i) = (s.chan i).sel.toNat) ∧
      ((s.unit (s.unitOf i)).thrRaw = true → s.halfRead (s.unitOf i) ≠ (s.chan i).sel.toNat))

/-- The next step could lose a threshold event of unit `u`: it is the unit's, which has one pending and is about to count to its
limit again (R49, R220, R253). -/
abbrev State.LosesEvent (s : State) (u : Fin 8) : Prop :=
  s.nextTurn = .unit u ∧ (s.unit u).active = true ∧ (s.unit u).thrRaw = true ∧
    (s.unit u).cnt.toNat + 1 = (s.unit u).txLim.toNat

/-- The next step could lose a threshold event. -/
abbrev State.LosingEvent (s : State) : Prop := ∃ u, s.LosesEvent u

/-- Unit `u` has lost a threshold event and no model fault has followed yet: it sends, one event is pending, and the half it reads is
the one the refill of that event would write (R163, R220; log 12). -/
abbrev State.EventLost (s : State) (u : Fin 8) : Prop :=
  (s.unit u).active = true ∧ (s.unit u).thrRaw = true ∧ s.halfRead u = (s.chan (s.chanOf u)).sel.toNat

/-! ### What a render sends -/

/-- Word `j` of what channel `i` sends: its stream, then END words (R134, R150). -/
def State.streamWord (s : State) (i : Fin 8) (j : Nat) : Word := ((stream s.cfg (s.chan i).enc)[j]?).getD 0#32

/-- The send state of channel `i` after `copies` half-buffer writes of one render (R150, R167). -/
structure State.Copied (s : State) (i : Fin 8) (copies : Nat) : Prop where
  pos : (s.chan i).pos.toNat = min (s.chan i).len (copies * s.halfBytes)
  sel : (s.chan i).sel = decide (copies % 2 = 1)
  dirty : (s.chan i).dirty = decide (copies = 0 ∨ (copies - 1) * s.halfBytes < (s.chan i).len)

/-- How far the render of channel `i` is: its half-buffer has been written `copies` times, and its unit, whose record was `before`,
has executed `sent` words of the stream. Every word that has been written and is still to be fetched, up to the END word, is the
stream's (R164, R168). -/
structure State.Progress (s : State) (i : Fin 8) (before : List WavePhase) (copies sent : Nat) : Prop where
  copied : s.Copied i copies
  sent_le : sent ≤ 8 * (s.chan i).len
  wave : (s.unit (s.unitOf i)).wave = before ++ (expected s.cfg (s.chan i).enc).take (2 * sent)
  words : ∀ j, sent ≤ j → j ≤ 8 * (s.chan i).len → j < copies * s.wp.toNat →
    s.pram (s.base (s.unitOf i) + j % (2 * s.wp.toNat)) = some (s.streamWord i j)

/-- The unit of channel `i` stands `sent` words after the start of the render. The half-buffer writes made and the pending refill, if
there is one, come to two halves ahead of the half it is in; or a threshold event was just lost, and the unit is about to enter a
half that has not been written again (R160, R163 to R165; log 12). -/
structure State.Paced (s : State) (i : Fin 8) (copies sent : Nat) : Prop where
  rdptr : (s.unit (s.unitOf i)).rdptr.toNat = sent % (2 * s.wp.toNat)
  cnt : (s.unit (s.unitOf i)).cnt.toNat = sent % s.wp.toNat
  primed : 2 ≤ copies
  ahead : copies + (s.unit (s.unitOf i)).thrRaw.toNat = sent / s.wp.toNat + 2 ∨
    ((s.unit (s.unitOf i)).thrRaw = true ∧ copies = sent / s.wp.toNat)

/-- The unit of channel `i` has stopped: it has sent the stream, and the half-buffer writes made and the refill still pending, if there
is one, come to 2 + T, where T = LEN div BPH is how many threshold events the render raised (R165, R168). -/
structure State.Sent (s : State) (i : Fin 8) (before : List WavePhase) : Prop where
  wave : (s.unit (s.unitOf i)).wave = before ++ expected s.cfg (s.chan i).enc
  copies : ∃ copies, copies + (s.unit (s.unitOf i)).thrRaw.toNat = (s.chan i).len / s.halfBytes + 2 ∧ s.Copied i copies

/-- The render of channel `i`, whose unit's record was `before` when it was loaded, is on its way to sending exactly the channel's
stream, or has sent it (R168). -/
structure State.StreamInv (s : State) (i : Fin 8) (before : List WavePhase) : Prop where
  loaded : s.phase = .loaded → s.Progress i before 0 0
  primed : s.phase = .primed ∨ s.phase = .armed → s.Progress i before 2 0
  sending : s.phase = .running → (s.unit (s.unitOf i)).active = true →
    ∃ copies sent, s.Progress i before copies sent ∧ s.Paced i copies sent
  stopped : s.phase = .running ∨ s.phase = .idle → (s.unit (s.unitOf i)).active = false → s.Sent i before

/-- `t` is reached from `s` by steps of which none resets the machine, and each is taken while channel `i` still holds its buffer and
no model fault is marked (a step from a state with a marked one answers no next state): part of one render of the channel
(R39, R168). -/
inductive State.Renders (i : Fin 8) (s : State) : State → Prop where
  | start : State.Renders i s s
  | next {t t' : State} (reached : State.Renders i s t) (held : (t.chan i).bufValid = true)
      (noReset : ∀ program, t.nextTurn ≠ .reset program) (taken : step t = .next t') : State.Renders i s t'

/-- All the invariants that hold after reset and that every step keeps. -/
abbrev State.Inv (s : State) : Prop :=
  s.ConfigInv ∧ s.MemInv ∧ s.ChanInv ∧ s.PointerInv ∧ s.LifeInv

end Sys2Proof.Machine
end

