-- ==== Sys2Proof/Certificates/Slice0/Obligations.lean ====
section
/-! DEFINITION. The statements made of the model, rule by rule. A statement's next state is written out as the old one with the
fields that may change replaced, so that everything not named is said to be unchanged. -/

open Sys2Proof Sys2Proof.Machine

/-! ### Encodings -/

/-- R109: words written out from the opcode map decode to the operations they stand for. -/
def Obligations.TableWordsDecode : Prop :=
  decode (.cmd 0x00000000#32) = .ok .nop ∧
  decode (.cmd 0x10000022#32) = .ok (.init 2#4 2#4) ∧
  decode (.cmd 0x20000041#32) = .ok (.load 65#16) ∧
  decode (.cmd 0x30000000#32) = .ok .prime ∧
  decode (.cmd 0x40000000#32) = .ok .arm ∧
  decode (.cmd 0x50000000#32) = .ok .start ∧
  decode (.cmd 0x60000005#32) = .ok (.wait 5) ∧
  decode (.pulse 0x001E800A#32) = .ok (.pulseData true 10#15 false 30#15) ∧
  decode (.pulse 0x80008000#32) = .ok (.pulseEnd 0x10001#17) ∧
  decode (.pulse 0x0000800A#32) = .ok (.pulseHalf true 10#15 false) ∧
  decode (.event 0x3#4) = .ok (.eventThr 3) ∧
  decode (.event 0xC#4) = .ok (.eventEnd 4)

/-- Every well-formed operation is read back from its word: no bit of an encoding is dropped (R101 to R109). -/
def Obligations.DecodeOfEncode : Prop :=
  ∀ i : Instr, i.WellFormed → decode (encode i) = .ok i

/-- A word that decodes is the word of the operation it decodes to, and that operation is well formed: every word has one meaning
(R110). -/
def Obligations.EncodeOfDecode : Prop :=
  ∀ (r : RawWord) (i : Instr), decode r = .ok i → i.WellFormed ∧ encode i = r

/-- R110 with R109: a command word is legal iff it matches one of the seven patterns. -/
def Obligations.LegalCommandsAreThePatterns : Prop :=
  ∀ w : Word, (∃ i, decodeCmd w = .ok i) ↔
    (w = 0x00000000#32 ∨ w &&& 0xFFFFFF00#32 = 0x10000000#32 ∨ w &&& 0xFFFF0000#32 = 0x20000000#32 ∨
     w = 0x30000000#32 ∨ w = 0x40000000#32 ∨ w = 0x50000000#32 ∨ w &&& 0xFFFFFFF8#32 = 0x60000000#32)

/-- R106: the class of a pulse word. -/
def Obligations.PulseWordsHaveOneClass : Prop :=
  ∀ w : Word,
    (bits w 0 15 = 0#15 → decodePulse w = .pulseEnd (bits w 15 17)) ∧
    (bits w 0 15 ≠ 0#15 ∧ bits w 16 15 ≠ 0#15 →
      decodePulse w = .pulseData (bit w 15) (bits w 0 15) (bit w 31) (bits w 16 15)) ∧
    (bits w 0 15 ≠ 0#15 ∧ bits w 16 15 = 0#15 → decodePulse w = .pulseHalf (bit w 15) (bits w 0 15) (bit w 31))

/-! ### The pulse encoder and the partition -/

/-- R107: the two words of a bit are DATA words, high phase first; the last one carries the reset duration. -/
def Obligations.BitsBecomeDataWords : Prop :=
  ∀ (p : Params) (b : Bool),
    decodePulse (pulse p b) =
      .pulseData true (if b then p.raw.t1h else p.raw.t0h) false (if b then p.raw.t1l else p.raw.t0l) ∧
    decodePulse (pulseLast p b) = .pulseData true (if b then p.raw.t1h else p.raw.t0h) false p.raw.treset

/-- R131: a byte becomes eight words, most significant bit first; only the last word of the last byte is extended. -/
def Obligations.BytesAreSentMsbFirst : Prop :=
  ∀ (p : Params) (x : Byte) (last : Bool), (encodeByte p x last).length = 8 ∧
    ∀ j < 8, (encodeByte p x last)[j]? =
      some (if last = true ∧ j = 7 then pulseLast p (bit x (7 - j)) else pulse p (bit x (7 - j)))

/-- R134: a channel's stream is its bytes' words in array order, the last byte marked, eight words a byte, every word DATA. -/
def Obligations.StreamKeepsArrayOrder : Prop :=
  ∀ (p : Params) (enc : List Byte), (stream p enc).length = 8 * enc.length ∧
    (∀ k x, enc[k]? = some x → ∀ j < 8,
      (stream p enc)[8 * k + j]? = (encodeByte p x (decide (k + 1 = enc.length)))[j]?) ∧
    (∀ w ∈ stream p enc, bits w 0 15 ≠ 0#15 ∧ bits w 16 15 ≠ 0#15)

/-- R132: the partition is contiguous and exact, and even to one pixel. -/
def Obligations.PartitionIsExact : Prop :=
  ∀ pixels n : Nat, 0 < n →
    partLo pixels n 0 = 0 ∧ partLo pixels n n = pixels ∧
    ∀ i < n, partLo pixels n i = (i * pixels) / n ∧
      (partLo pixels n (i + 1) = partLo pixels n i + pixels / n ∨
       partLo pixels n (i + 1) = partLo pixels n i + (pixels / n + 1))

/-- R180: the mapping of channels to units: its formula, the rule's table, and that it is one to one. -/
def Obligations.ChannelsMapToUnits : Prop :=
  (∀ n : Nat, LegalCount n → ∀ i : Fin 8, i.val < n → (mapUnit n i).val = i.val * (8 / n) ∧
    ∀ j : Fin 8, j.val < n → mapUnit n i = mapUnit n j → i = j) ∧
  mapUnit 1 0 = 0 ∧ [mapUnit 2 0, mapUnit 2 1] = [0, 4] ∧
  [mapUnit 4 0, mapUnit 4 1, mapUnit 4 2, mapUnit 4 3] = [0, 2, 4, 6] ∧
  indices.map (mapUnit 8) = [0, 1, 2, 3, 4, 5, 6, 7]

/-- R77: the regions of the configured channels' units are disjoint and cover the pulse memory. -/
def Obligations.RegionsTilePulseMemory : Prop :=
  ∀ s : State, s.Configured → ∀ w < s.cfg.pramWords,
    ∃ i : Fin 8, (i.val < s.chanCount ∧
        s.base (s.unitOf i) ≤ w ∧ w < s.base (s.unitOf i) + s.regionWords (s.unitOf i)) ∧
      ∀ j : Fin 8, j.val < s.chanCount ∧
        s.base (s.unitOf j) ≤ w ∧ w < s.base (s.unitOf j) + s.regionWords (s.unitOf j) → j = i

/-! ### Reset -/

/-- R58: after reset every register but the constants reads 0, the constants read the parameters, every encode buffer and output
record is empty, every byte of both memories is uninitialised, and no model fault is marked. -/
def Obligations.ResetValues : Prop :=
  ∀ p : Params,
    (∀ r : Reg, r ≠ .id → r ≠ .param0 → r ≠ .param1 → r ≠ .t0 → r ≠ .t1 → r ≠ .trst →
      (State.resetWith p).readReg r = 0#32) ∧
    (State.resetWith p).readReg .id = 0x57532811#32 ∧ (State.resetWith p).cfg = p ∧
    (State.resetWith p).readReg .param0 = p.raw.clkDiv ++ 8#8 ++ 8#8 ++ BitVec.ofNat 8 p.raw.ppb ∧
    (State.resetWith p).readReg .param1 = 0#16 ++ BitVec.ofNat 16 p.raw.maxPixels ∧
    (State.resetWith p).readReg .t0 = 0#1 ++ p.raw.t0l ++ 0#1 ++ p.raw.t0h ∧
    (State.resetWith p).readReg .t1 = 0#1 ++ p.raw.t1l ++ 0#1 ++ p.raw.t1h ∧
    (State.resetWith p).readReg .trst = 0#17 ++ p.raw.treset ∧
    (∀ i, ((State.resetWith p).chan i).enc = []) ∧
    (∀ u, ((State.resetWith p).unit u).wave = []) ∧
    (∀ a, Memory.read (State.resetWith p).mem a = none) ∧ (State.resetWith p).modelFault = none

/-- R240: the reset input takes any state to the state after reset; what the outside still holds in store, the host's next program
and the order of the agents, is not the engine's. -/
def Obligations.ResetAtAnyTime : Prop :=
  ∀ (s : State) (program : List Access) (rest : List Turn), s.schedule = .reset program :: rest →
    step s = .next { State.resetWith s.cfg with program := program, schedule := rest, choices := s.choices }

/-! ### Commands -/

/-- R187: NOP changes nothing, in any state, HALTED or not; a word with OP 0 and any other bit set is not NOP but illegal. -/
def Obligations.NopChangesNothing : Prop :=
  decodeCmd 0x00000000#32 = .ok .nop ∧ (∀ s : State, exec .nop s = .next s) ∧
  ∀ w : Word, bits w 28 4 = 0x0#4 → bits w 0 28 ≠ 0#28 → decodeCmd w = .error .illegalCommand

/-- R181: INIT. With a legal channel count and a GPIO list of that length it configures the engine, and changes nothing else; a
second INIT is a REINIT; other operands are a CONFIG_ERROR; a faulting INIT writes nothing but FAULT. -/
def Obligations.InitConfigures : Prop :=
  (∀ nch ngpio : BitVec 4, decodeCmd (0x1#4 ++ 0#20 ++ ngpio ++ nch) = .ok (.init nch ngpio)) ∧
  (∀ (s : State) (nch : BitVec 4), s.fault = none → s.initDone = false → LegalCount nch.toNat →
    ∃ t : State, exec (.init nch nch) s = .next t ∧
      t = { s with
        initDone := true, nch := nch, bpc := t.bpc, wp := t.wp, map := t.map, units := t.units } ∧
      t.bpc.toNat = 8 / nch.toNat ∧ t.wp.toNat = s.cfg.raw.ppb * (8 / nch.toNat) / 2 ∧
      (∀ i : Fin 8, t.unitOf i = if i.val < nch.toNat then mapUnit nch.toNat i else s.unitOf i) ∧
      (∀ i : Fin 8, i.val < nch.toNat →
        t.unit (t.unitOf i) =
          { s.unit (t.unitOf i) with
            div := s.cfg.raw.clkDiv, memSize := t.bpc, idleLevel := false, wrapEn := true, used := true, active := false,
            gpio := s.gpio[i], lch := i, txLim := t.wp, thrEna := true, endEna := true }) ∧
      (∀ u : Fin 8, (∀ i : Fin 8, i.val < nch.toNat → t.unitOf i ≠ u) → t.unit u = s.unit u)) ∧
  (∀ (s : State) (nch ngpio : BitVec 4), s.fault = none →
    (s.initDone = true → exec (.init nch ngpio) s = .next { s with fault := some .reinit }) ∧
    (s.initDone = false → ¬ (LegalCount nch.toNat ∧ ngpio = nch) →
      exec (.init nch ngpio) s = .next { s with fault := some .configError }))

/-- R137: LOAD. In its phase, of a frame that fits and whose bytes are all initialised, it fills every configured channel's buffer
with its pixels' bytes, makes the send state fresh, and changes nothing else; its faults, in the order of its checks. -/
def Obligations.LoadFillsBuffers : Prop :=
  (∀ p : BitVec 16, decodeCmd (0x2#4 ++ 0#12 ++ p) = .ok (.load p)) ∧
  (∀ (s : State) (p : BitVec 16), s.Ready → s.phase = .idle → p.toNat ≤ s.cfg.raw.maxPixels →
    (∀ k < 3 * p.toNat, Memory.read s.mem (frameAddr k) ≠ none) →
    ∃ chans, exec (.load p) s = .next { s with chans := chans, phase := .loaded } ∧
      ∀ i : Fin 8,
        (s.chanCount ≤ i.val → chans[i] = s.chan i) ∧
        (i.val < s.chanCount →
          chans[i] = { s.chan i with
            enc := chans[i].enc, pos := 0#18, dirty := true, sel := false, bufValid := true } ∧
          chans[i].enc.length =
            3 * ((i.val + 1) * p.toNat / s.chanCount) - 3 * (i.val * p.toNat / s.chanCount) ∧
          ∀ k < chans[i].enc.length,
            chans[i].enc[k]? = Memory.read s.mem (frameAddr (3 * (i.val * p.toNat / s.chanCount) + k)))) ∧
  (∀ (s : State) (p : BitVec 16), s.fault = none → s.initDone = false →
    exec (.load p) s = .next { s with fault := some .notInitialized }) ∧
  (∀ (s : State) (p : BitVec 16), s.Ready →
    (s.phase ≠ .idle → exec (.load p) s = .next { s with fault := some .sequenceError }) ∧
    (s.phase = .idle → s.cfg.raw.maxPixels < p.toNat →
      exec (.load p) s = .next { s with fault := some .frameTooLarge }) ∧
    (s.phase = .idle → p.toNat ≤ s.cfg.raw.maxPixels →
      (∃ k < 3 * p.toNat, Memory.read s.mem (frameAddr k) = none) →
      exec (.load p) s = .next { s with modelFault := some .uninitRead }))

/-- R156: PRIME. In its phase it writes pulse memory and the configured channels' send states, and changes nothing else; and in a
state that keeps the invariants it leaves in each channel's region the first two halves of its stream, followed by END words (an
empty channel's second half is not written). Its faults. -/
def Obligations.PrimeWritesBothHalves : Prop :=
  decodeCmd 0x30000000#32 = .ok .prime ∧
  (∀ s : State, s.Ready → s.phase = .loaded →
    ∃ chans mem, exec .prime s = .next { s with chans := chans, mem := mem, phase := .primed } ∧
      (∀ i : Fin 8, s.chanCount ≤ i.val → chans[i] = s.chan i) ∧
      (s.Inv → ∀ i : Fin 8, i.val < s.chanCount →
        chans[i] = { s.chan i with
          pos := chans[i].pos, dirty := decide (s.halfBytes < (s.chan i).len), sel := false } ∧
        chans[i].pos.toNat = min (s.chan i).len (2 * s.halfBytes) ∧
        (∀ m < 2 * s.wp.toNat, (0 < (s.chan i).len ∨ m < s.wp.toNat) →
          Memory.readWord mem (pramAddr (s.base (s.unitOf i) + m)) =
            some ((stream s.cfg (s.chan i).enc)[m]?.getD 0#32)) ∧
        (∀ m < s.wp.toNat, (s.chan i).len = 0 →
          Memory.readWord mem (pramAddr (s.base (s.unitOf i) + s.wp.toNat + m)) =
            Memory.readWord s.mem (pramAddr (s.base (s.unitOf i) + s.wp.toNat + m)))) ∧
      (s.Inv → ∀ a, a < pramAddr 0 ∨ pramAddr s.cfg.pramWords ≤ a → Memory.read mem a = Memory.read s.mem a)) ∧
  (∀ s : State, s.fault = none → s.initDone = false → exec .prime s = .next { s with fault := some .notInitialized }) ∧
  (∀ s : State, s.Ready → s.phase ≠ .loaded → exec .prime s = .next { s with fault := some .sequenceError })

/-- R184: ARM. In its phase it creates every configured channel's signal, which did not exist in a state that keeps the invariants,
and changes nothing else; its faults. -/
def Obligations.ArmCreatesSignals : Prop :=
  decodeCmd 0x40000000#32 = .ok .arm ∧
  (∀ s : State, s.Ready → s.phase = .primed →
    (s.Inv → ∀ i : Fin 8, i.val < s.chanCount → (s.chan i).sig = .none) ∧
    ∃ chans, exec .arm s = .next { s with chans := chans, phase := .armed } ∧
      ∀ i : Fin 8, chans[i] = if i.val < s.chanCount then { s.chan i with sig := .clear } else s.chan i) ∧
  (∀ s : State, s.fault = none → s.initDone = false → exec .arm s = .next { s with fault := some .notInitialized }) ∧
  (∀ s : State, s.Ready → s.phase ≠ .primed → exec .arm s = .next { s with fault := some .sequenceError })

/-- R185: START. In its phase it starts every configured channel's unit from the top of its region with no event, puts the channels
in flight, and changes nothing else; its faults. -/
def Obligations.StartLaunchesUnits : Prop :=
  decodeCmd 0x50000000#32 = .ok .start ∧
  (∀ s : State, s.Ready → s.phase = .armed →
    ∃ chans units, exec .start s = .next { s with chans := chans, units := units, phase := .running } ∧
      (∀ i : Fin 8, chans[i] = if i.val < s.chanCount then { s.chan i with inFlight := true } else s.chan i) ∧
      (∀ u : Fin 8, (∃ i : Fin 8, i.val < s.chanCount ∧ s.unitOf i = u) →
        units[u] =
          { s.unit u with rdptr := 0#12, cnt := 0#12, thrRaw := false, endRaw := false, active := true }) ∧
      (∀ u : Fin 8, (∀ i : Fin 8, i.val < s.chanCount → s.unitOf i ≠ u) → units[u] = s.unit u)) ∧
  (∀ s : State, s.fault = none → s.initDone = false → exec .start s = .next { s with fault := some .notInitialized }) ∧
  (∀ s : State, s.Ready → s.phase ≠ .armed → exec .start s = .next { s with fault := some .sequenceError })

/-- R186: WAIT. On a configured channel with a buffer whose signal is given it destroys the signal, frees the buffer, ends the
render with the last buffer, and changes nothing else; if the signal is not given it holds the host (log 5) and changes nothing
else; its faults, in the order of its checks. -/
def Obligations.WaitReleasesChannel : Prop :=
  (∀ ch : Fin 8, decodeCmd (0x6#4 ++ 0#25 ++ BitVec.ofFin (w := 3) ch) = .ok (.wait ch)) ∧
  (∀ (s : State) (ch : Fin 8), s.Ready → s.phase = .running → ch.val < s.chanCount → (s.chan ch).bufValid = true →
    ((s.chan ch).sig = .set →
      ∃ chans phase, exec (.wait ch) s = .next { s with chans := chans, phase := phase, hold := none } ∧
        (∀ i : Fin 8, chans[i] = if i = ch then { s.chan i with sig := .none, bufValid := false } else s.chan i) ∧
        ((∀ i : Fin 8, i.val < s.chanCount → chans[i].bufValid = false) → phase = .idle) ∧
        ((∃ i : Fin 8, i.val < s.chanCount ∧ chans[i].bufValid = true) → phase = .running)) ∧
    ((s.chan ch).sig ≠ .set → exec (.wait ch) s = .next { s with hold := some ch })) ∧
  (∀ (s : State) (ch : Fin 8), s.fault = none → s.initDone = false →
    exec (.wait ch) s = .next { s with fault := some .notInitialized }) ∧
  (∀ (s : State) (ch : Fin 8), s.Ready →
    (s.phase ≠ .running → exec (.wait ch) s = .next { s with fault := some .sequenceError }) ∧
    (s.phase = .running → s.chanCount ≤ ch.val → exec (.wait ch) s = .next { s with fault := some .badChannel }) ∧
    (s.phase = .running → ch.val < s.chanCount → (s.chan ch).bufValid = false →
      exec (.wait ch) s = .next { s with fault := some .sequenceError }))

/-- R186: a host held in a WAIT has no step until the channel's signal is given (a chosen host passes: log 3), and its next step then
releases the channel. -/
def Obligations.HeldHostReturnsOnSignal : Prop :=
  ∀ (s : State) (ch : Fin 8) (rest : List Turn), s.schedule = .host :: rest → s.modelFault = none → s.hold = some ch →
    ((s.chan ch).sig ≠ .set → step s = .next { s with schedule := rest }) ∧
    ((s.chan ch).sig = .set →
      ∃ chans phase, step s = .next { s with schedule := rest, chans := chans, phase := phase, hold := none } ∧
        (∀ i : Fin 8, chans[i] = if i = ch then { s.chan i with sig := .none, bufValid := false } else s.chan i) ∧
        ((∀ i : Fin 8, i.val < s.chanCount → chans[i].bufValid = false) → phase = .idle) ∧
        ((∃ i : Fin 8, i.val < s.chanCount ∧ chans[i].bufValid = true) → phase = s.phase))

/-- R32: INIT_DONE is 0 after reset, becomes 1 only in a step in which the host writes an INIT to CMD, and stays 1 until reset; while
it is 0 every command but NOP and INIT is a NOT_INITIALIZED. -/
def Obligations.InitDoneUntilReset : Prop :=
  (∀ p : Params, (State.resetWith p).initDone = false) ∧
  (∀ s t : State, step s = .next t → (∀ program, s.nextTurn ≠ .reset program) →
    (s.initDone = true → t.initDone = true) ∧
    (s.initDone = false → t.initDone = true →
      s.nextTurn = .host ∧ s.fault = none ∧
      ∃ w rest nch, s.program = .write .word 0x004#18 w :: rest ∧ decode (.cmd w) = .ok (.init nch nch) ∧
        LegalCount nch.toNat)) ∧
  (∀ (s : State) (i : Instr) (w : Word), s.fault = none → s.initDone = false → decode (.cmd w) = .ok i → i ≠ .nop →
    (∀ nch ngpio, i ≠ .init nch ngpio) → exec i s = .next { s with fault := some .notInitialized })

/-- R55, R210: while HALTED a write to CMD, legal or not, and a write to a GPIO register have no effect. -/
def Obligations.HaltedEngineIgnoresWrites : Prop :=
  ∀ (s : State) (w : Word) (i : Fin 8), s.fault ≠ none →
    writeCommand w s = .next s ∧ writeGpio i w s = .next s

/-! ### Pulse words and events -/

/-- R160: a DATA word drives its two phases, advances the read pointer round the unit's region and counts toward the threshold; it
changes nothing but the unit that fetched it. -/
def Obligations.DataWordDrivesTwoPhases : Prop :=
  ∀ (s : State) (lvl0 : Bool) (dur0 : BitVec 15) (lvl1 : Bool) (dur1 : BitVec 15),
    ∃ units, exec (.pulseData lvl0 dur0 lvl1 dur1) s = .next { s with units := units } ∧
      (∀ v : Fin 8, v ≠ s.txUnit → units[v] = s.unit v) ∧
      units[s.txUnit] = { s.unit s.txUnit with
        wave := (s.unit s.txUnit).wave ++ [⟨lvl0, dur0⟩, ⟨lvl1, dur1⟩]
        rdptr := units[s.txUnit].rdptr, cnt := units[s.txUnit].cnt, thrRaw := units[s.txUnit].thrRaw } ∧
      (0 < s.regionWords s.txUnit →
        units[s.txUnit].rdptr.toNat = ((s.unit s.txUnit).rdptr.toNat + 1) % s.regionWords s.txUnit) ∧
      ((s.unit s.txUnit).cnt.toNat + 1 = (s.unit s.txUnit).txLim.toNat →
        units[s.txUnit].cnt = 0#12 ∧ units[s.txUnit].thrRaw = true) ∧
      ((s.unit s.txUnit).cnt.toNat + 1 ≠ (s.unit s.txUnit).txLim.toNat →
        units[s.txUnit].cnt = (s.unit s.txUnit).cnt + 1#12 ∧
        units[s.txUnit].thrRaw = (s.unit s.txUnit).thrRaw)

/-- R161: an END word stops the unit that fetched it and raises its end event; nothing else changes. -/
def Obligations.EndWordStopsUnit : Prop :=
  ∀ (s : State) (ignored : BitVec 17),
    ∃ units, exec (.pulseEnd ignored) s = .next { s with units := units } ∧
      ∀ v : Fin 8, units[v] = if v = s.txUnit then { s.unit v with active := false, endRaw := true } else s.unit v

/-- R162: a HALF word marks the model fault UNMODELLED_PULSE and changes nothing else. -/
def Obligations.HalfWordMarksModelFault : Prop :=
  ∀ (s : State) (lvl0 : Bool) (dur0 : BitVec 15) (lvl1 : Bool),
    exec (.pulseHalf lvl0 dur0 lvl1) s = .next { s with modelFault := some .unmodelledPulse }

/-- R215 with R150: the service of a threshold event, before another one is lost (log 12), fills the half SEL names of the region of
the unit's channel, as the half-buffer write does it: live data followed by END words, or one flush, or nothing; it clears the raw bit,
and changes nothing else. The half's words are at pulse words `base`, `base + 1`, ... -/
def Obligations.ThresholdServiceRefillsHalf : Prop :=
  ∀ (s : State) (u : Fin 8) (i : Fin 8) (c : Chan) (n base : Nat), ¬ s.EventLost u →
    i = s.chanOf u → c = s.chan i → n = min (s.wp.toNat / 8) (c.len - c.pos.toNat) →
    base = s.base (s.unitOf i) + (if c.sel then s.wp.toNat else 0) →
    ∃ chans units mem, exec (.eventThr u) s = .next { s with chans := chans, units := units, mem := mem } ∧
      (∀ v : Fin 8, units[v] = if v = u then { s.unit v with thrRaw := false } else s.unit v) ∧
      (∀ j : Fin 8, j ≠ i → chans[j] = s.chan j) ∧
      chans[i] = { c with
        pos := if c.pos.toNat < c.len then BitVec.ofNat 18 (c.pos.toNat + n) else c.pos
        dirty := decide (c.pos.toNat < c.len), sel := !c.sel } ∧
      (∀ m < s.wp.toNat, c.pos.toNat < c.len →
        Memory.readWord mem (pramAddr (base + m)) =
          if m < 8 * n then
            (c.enc[c.pos.toNat + m / 8]?).bind fun x =>
              (encodeByte s.cfg x (decide (c.pos.toNat + m / 8 + 1 = c.len)))[m % 8]?
          else some 0#32) ∧
      (∀ m < s.wp.toNat, c.len ≤ c.pos.toNat → c.dirty = true →
        Memory.readWord mem (pramAddr (base + m)) = some 0#32) ∧
      (c.len ≤ c.pos.toNat → c.dirty = false → mem = s.mem) ∧
      ∀ a, a < pramAddr base ∨ pramAddr (base + s.wp.toNat) ≤ a → Memory.read mem a = Memory.read s.mem a

/-- R216: the service of an end event clears the raw bit, ends the channel's flight and gives its signal, which stood at CLEAR in a
state that keeps the invariants; nothing else changes. -/
def Obligations.EndServiceGivesSignal : Prop :=
  ∀ (s : State) (u : Fin 8),
    (∃ chans units, exec (.eventEnd u) s = .next { s with chans := chans, units := units } ∧
      (∀ v : Fin 8, units[v] = if v = u then { s.unit v with endRaw := false } else s.unit v) ∧
      (∀ j : Fin 8, chans[j] =
        if j = s.chanOf u then { s.chan j with inFlight := false, sig := .set } else s.chan j)) ∧
    (s.Inv → (s.unit u).endRaw = true → (s.chan (s.chanOf u)).sig = .clear)

/-! ### Bus accesses -/

/-- R71 with R72, R75 and R22: which accesses are legal, what each reaches, and which aligned offsets below 0x1000 hold no register. -/
def Obligations.RegionsAdmitAccesses : Prop :=
  (∀ (p : Params) (width : Width) (addr : BitVec 18),
    (∀ r, busTarget p width addr = some (.reg r) ↔
      width = .word ∧ addr.toNat % 4 = 0 ∧ addr.toNat < 0x1000 ∧ regAt addr.toNat = some r) ∧
    (∀ w, busTarget p width addr = some (.pram w) ↔
      width = .word ∧ addr.toNat = 0x1000 + 4 * w ∧ w < 8 * p.raw.ppb) ∧
    (∀ k, busTarget p width addr = some (.frame k) ↔
      addr.toNat % width.bytes = 0 ∧ addr.toNat = 0x10000 + k ∧ k + width.bytes ≤ 3 * p.raw.maxPixels)) ∧
  ∀ o < 0x1000, o % 4 = 0 →
    (regAt o = none ↔
      (0x02C ≤ o ∧ o < 0x040) ∨ (0x060 ≤ o ∧ o < 0x080) ∨ (0x10C ≤ o ∧ o < 0x140) ∨ 0x1A0 ≤ o)

/-- R72, R22: an access that reaches nothing, a write to pulse memory, and a write to a register other than CMD and GPIO are
BAD_ACCESS with no other effect; while HALTED they change nothing, and FAULT keeps the first code (R210). A read returns 0. -/
def Obligations.BadAccessesFault : Prop :=
  ∀ (s : State) (width : Width) (addr : BitVec 18) (v : Word),
    (busTarget s.cfg width addr = none →
      (s.fault = none →
        busRead width addr s = .next { s with fault := some .badAccess, reads := s.reads ++ [0#32] }) ∧
      (s.fault ≠ none → busRead width addr s = .next { s with reads := s.reads ++ [0#32] })) ∧
    (busTarget s.cfg width addr = none ∨ (∃ w, busTarget s.cfg width addr = some (.pram w)) ∨
        (∃ r, busTarget s.cfg width addr = some (.reg r) ∧ r ≠ .cmd ∧ ∀ i, r ≠ .gpio i) →
      (s.fault = none → busWrite width addr v s = .next { s with fault := some .badAccess }) ∧
      (s.fault ≠ none → busWrite width addr v s = .next s))

/-- R73, R78, R188: a read of a register, of an initialised pulse word or of initialised frame bytes returns the value and changes
nothing else. -/
def Obligations.ReadsChangeNothing : Prop :=
  ∀ (s : State) (width : Width) (addr : BitVec 18),
    (∀ r, busTarget s.cfg width addr = some (.reg r) →
      busRead width addr s = .next { s with reads := s.reads ++ [s.readReg r] }) ∧
    (∀ w v, busTarget s.cfg width addr = some (.pram w) → Memory.readWord s.mem (pramAddr w) = some v →
      busRead width addr s = .next { s with reads := s.reads ++ [v] }) ∧
    (∀ k bs, busTarget s.cfg width addr = some (.frame k) → bs.length = width.bytes →
      (∀ j < width.bytes, Memory.read s.mem (frameAddr (k + j)) = bs[j]?) →
      busRead width addr s = .next { s with reads := s.reads ++ [joinBytes bs] })

/-- R54: a host read of an uninitialised pulse word or frame byte marks the model fault UNINIT_READ and changes nothing else. -/
def Obligations.UninitialisedReadsMarkModelFault : Prop :=
  ∀ (s : State) (width : Width) (addr : BitVec 18),
    (∀ w, busTarget s.cfg width addr = some (.pram w) →
      (∃ j < 4, Memory.read s.mem (pramAddr w + j) = none) →
      busRead width addr s = .next { s with modelFault := some .uninitRead }) ∧
    (∀ k, busTarget s.cfg width addr = some (.frame k) →
      (∃ j < width.bytes, Memory.read s.mem (frameAddr (k + j)) = none) →
      busRead width addr s = .next { s with modelFault := some .uninitRead })

/-- R74 with R73: a write to FRAME stores byte `j` of the value at the access's address plus `j`, marks those bytes and changes nothing
else, also while HALTED; and an access of the same width reads the value back. -/
def Obligations.FrameWritesAreLittleEndian : Prop :=
  ∀ (s : State) (width : Width) (addr : BitVec 18) (v : Word) (k : Nat),
    busTarget s.cfg width addr = some (.frame k) →
    ∃ mem, busWrite width addr v s = .next { s with mem := mem } ∧
      (∀ j < width.bytes, Memory.read mem (frameAddr (k + j)) = some (bits v (8 * j) 8)) ∧
      (∀ a, a < frameAddr k ∨ frameAddr k + width.bytes ≤ a → Memory.read mem a = Memory.read s.mem a) ∧
      busRead width addr { s with mem := mem } =
        .next { s with mem := mem, reads := s.reads ++ [(v.setWidth (8 * width.bytes)).setWidth 32] }

/-- R33: GPIO[i] reads its identifier; before INIT a write stores the low byte and changes nothing else; after INIT it is a
BAD_ACCESS. -/
def Obligations.GpioWrites : Prop :=
  ∀ (s : State) (i : Fin 8) (w : Word),
    regAt (0x040 + 4 * i.val) = some (.gpio i) ∧ s.readReg (.gpio i) = 0#24 ++ s.gpio[i] ∧
    (∀ p : Params, (State.resetWith p).gpio[i] = 0#8) ∧
    (s.fault = none → s.initDone = false →
      writeReg (.gpio i) w s = .next { s with gpio := s.gpio.set i (bits w 0 8) }) ∧
    (s.fault = none → s.initDone = true → writeReg (.gpio i) w s = .next { s with fault := some .badAccess })

/-! ### Registers -/

/-- R23, R29, R31: the constant registers, at their offsets. -/
def Obligations.ConstantRegisters : Prop :=
  ∀ s : State,
    regAt 0x000 = some .id ∧ s.readReg .id = 0x57532811#32 ∧
    regAt 0x018 = some .param0 ∧
    s.readReg .param0 = s.cfg.raw.clkDiv ++ 8#8 ++ 8#8 ++ BitVec.ofNat 8 s.cfg.raw.ppb ∧
    regAt 0x01C = some .param1 ∧ s.readReg .param1 = 0#16 ++ BitVec.ofNat 16 s.cfg.raw.maxPixels ∧
    regAt 0x020 = some .t0 ∧ s.readReg .t0 = 0#1 ++ s.cfg.raw.t0l ++ 0#1 ++ s.cfg.raw.t0h ∧
    regAt 0x024 = some .t1 ∧ s.readReg .t1 = 0#1 ++ s.cfg.raw.t1l ++ 0#1 ++ s.cfg.raw.t1h ∧
    regAt 0x028 = some .trst ∧ s.readReg .trst = 0#17 ++ s.cfg.raw.treset

/-- R25: STATUS, its offset and its value after reset; FAULT, CONFIG and the reading of CMD (R24, R26, R27); the numbers of the phases
(R30) and of the faults (R211). -/
def Obligations.StatusRegisters : Prop :=
  (∀ s : State,
    regAt 0x008 = some .status ∧
    s.readReg .status =
      0#26 ++ BitVec.ofBool (decide (∃ i : Fin 8, i.val < s.chanCount ∧ (s.chan i).inFlight = true)) ++
        BitVec.ofBool (decide (s.faultCode ≠ 0#8)) ++ s.phase.code ++ BitVec.ofBool s.initDone ∧
    (∀ p : Params, (State.resetWith p).readReg .status = 0x00000000#32) ∧
    regAt 0x00C = some .fault ∧ s.readReg .fault = 0#24 ++ s.faultCode ∧
    (s.fault = none → s.faultCode = 0x00#8) ∧ (∀ c, s.fault = some c → s.faultCode = c.code) ∧
    regAt 0x010 = some .config ∧ s.readReg .config = 0#12 ++ s.wp ++ s.bpc ++ s.nch ∧
    regAt 0x004 = some .cmd ∧ s.readReg .cmd = 0#32) ∧
  RenderPhase.code .idle = 0#3 ∧ RenderPhase.code .loaded = 1#3 ∧ RenderPhase.code .primed = 2#3 ∧
  RenderPhase.code .armed = 3#3 ∧ RenderPhase.code .running = 4#3 ∧
  FaultCode.code .illegalCommand = 0x01#8 ∧ FaultCode.code .configError = 0x02#8 ∧
  FaultCode.code .notInitialized = 0x03#8 ∧ FaultCode.code .reinit = 0x04#8 ∧ FaultCode.code .sequenceError = 0x05#8 ∧
  FaultCode.code .frameTooLarge = 0x06#8 ∧ FaultCode.code .badChannel = 0x07#8 ∧ FaultCode.code .badAccess = 0x08#8

/-- R42 to R45: the channels' and the units' registers, at their offsets; the numbers of the signals (R41). -/
def Obligations.ChannelAndUnitRegisters : Prop :=
  Signal.code .none = 0#2 ∧ Signal.code .clear = 1#2 ∧ Signal.code .set = 2#2 ∧
  ∀ (s : State) (i : Fin 8),
    regAt (0x080 + 16 * i.val) = some (.chLen i) ∧
    s.readReg (.chLen i) = 0#14 ++ BitVec.ofNat 18 (s.chan i).enc.length ∧
    regAt (0x084 + 16 * i.val) = some (.chPos i) ∧ s.readReg (.chPos i) = 0#14 ++ (s.chan i).pos ∧
    regAt (0x088 + 16 * i.val) = some (.chFlags i) ∧
    s.readReg (.chFlags i) =
      0#26 ++ BitVec.ofBool (s.chan i).inFlight ++ BitVec.ofBool (s.chan i).bufValid ++ (s.chan i).sig.code ++
        BitVec.ofBool (s.chan i).sel ++ BitVec.ofBool (s.chan i).dirty ∧
    regAt (0x08C + 16 * i.val) = some (.chReserved i) ∧ s.readReg (.chReserved i) = 0#32 ∧
    regAt (0x140 + 4 * i.val) = some (.unitConf i) ∧
    s.readReg (.unitConf i) =
      0#5 ++ BitVec.ofNat 3 (s.unit i).lch.val ++ (s.unit i).gpio ++ BitVec.ofBool (s.unit i).active ++
        BitVec.ofBool (s.unit i).used ++ BitVec.ofBool (s.unit i).wrapEn ++ BitVec.ofBool (s.unit i).idleLevel ++
        (s.unit i).memSize ++ (s.unit i).div ∧
    regAt (0x160 + 4 * i.val) = some (.unitTxlim i) ∧ s.readReg (.unitTxlim i) = 0#20 ++ (s.unit i).txLim ∧
    regAt (0x180 + 4 * i.val) = some (.unitPtr i) ∧
    s.readReg (.unitPtr i) = 0#4 ++ (s.unit i).cnt ++ 0#4 ++ (s.unit i).rdptr

/-- R49, R50, R51, R28: the interrupt words, bit by bit, and MAP, field by field, at their offsets; an event is pending iff its bit of
INT_ST is 1. -/
def Obligations.InterruptAndMapWords : Prop :=
  regAt 0x100 = some .intRaw ∧ regAt 0x104 = some .intEna ∧ regAt 0x108 = some .intSt ∧ regAt 0x014 = some .map ∧
  ∀ (s : State) (u : Fin 8),
    bit (s.readReg .intRaw) u.val = (s.unit u).thrRaw ∧ bit (s.readReg .intRaw) (8 + u.val) = (s.unit u).endRaw ∧
    bit (s.readReg .intEna) u.val = (s.unit u).thrEna ∧ bit (s.readReg .intEna) (8 + u.val) = (s.unit u).endEna ∧
    (∀ k, 16 ≤ k → bit (s.readReg .intRaw) k = false ∧ bit (s.readReg .intEna) k = false) ∧
    s.readReg .intSt = s.readReg .intRaw &&& s.readReg .intEna ∧
    ((s.unit u).thrPending = true ↔ bit (s.readReg .intSt) u.val = true) ∧
    ((s.unit u).endPending = true ↔ bit (s.readReg .intSt) (8 + u.val) = true) ∧
    bits (s.readReg .map) (4 * u.val) 3 = BitVec.ofNat 3 (s.unitOf u).val ∧
    bit (s.readReg .map) (4 * u.val + 3) = false

/-- R48: the line of a used unit that does not transmit is at the unit's idle level, which is low once INIT has configured it. -/
def Obligations.RestingLineIsIdleLevel : Prop :=
  ∀ (s : State) (u : Fin 8), (s.unit u).used = true → (s.unit u).active = false →
    s.restLine u = some (s.unit u).idleLevel ∧ (s.ConfigInv → s.restLine u = some false)

/-! ### Steps of the agents -/

/-- R73, R24, R111: a step of a host that is not held issues its next bus access, if it has one (with none it passes: log 3); a word
written to CMD runs the command it decodes to, an illegal one is an ILLEGAL_COMMAND, and while HALTED neither has an effect (R210);
the GPIO registers are written where R33 puts them. -/
def Obligations.HostStepRunsCommand : Prop :=
  (∀ (s : State) (turns : List Turn), s.schedule = .host :: turns → s.modelFault = none → s.hold = none →
    (s.program = [] → step s = .next { s with schedule := turns }) ∧
    (∀ width addr rest, s.program = .read width addr :: rest →
      step s = busRead width addr { s with schedule := turns, program := rest }) ∧
    (∀ width addr v rest, s.program = .write width addr v :: rest →
      step s = busWrite width addr v { s with schedule := turns, program := rest }) ∧
    (∀ w rest, s.program = .write .word 0x004#18 w :: rest →
      (∀ i, decode (.cmd w) = .ok i → step s = exec i { s with schedule := turns, program := rest }) ∧
      (decode (.cmd w) = .error .illegalCommand → s.fault = none →
        step s = .next { s with schedule := turns, program := rest, fault := some .illegalCommand }) ∧
      (s.fault ≠ none → step s = .next { s with schedule := turns, program := rest }))) ∧
  ∀ (s : State) (i : Fin 8) (w : Word), busWrite .word (BitVec.ofNat 18 (0x040 + 4 * i.val)) w s = writeReg (.gpio i) w s

/-- R158, R159, R163: a step of an active unit is a model fault if it underruns or its word is uninitialised, and else runs the
pulse word it fetches; a unit at rest has no step. -/
def Obligations.UnitStepRunsFetchedWord : Prop :=
  ∀ (s : State) (turns : List Turn) (u : Fin 8), s.schedule = .unit u :: turns → s.modelFault = none →
    ((s.unit u).active = false → step s = .next { s with schedule := turns }) ∧
    ((s.unit u).active = true → (s.unit u).thrRaw = true → s.halfRead u = (s.chan (s.chanOf u)).sel.toNat →
      step s = .next { s with schedule := turns, modelFault := some .underrun }) ∧
    ((s.unit u).active = true → ¬ ((s.unit u).thrRaw = true ∧ s.halfRead u = (s.chan (s.chanOf u)).sel.toNat) →
      (∀ w, s.pram (s.base u + (s.unit u).rdptr.toNat) = some w → ∀ i, decode (.pulse w) = .ok i →
        step s = exec i { s with schedule := turns, txUnit := u }) ∧
      (s.pram (s.base u + (s.unit u).rdptr.toNat) = none →
        step s = .next { s with schedule := turns, modelFault := some .uninitRead }))

/-- R214: a step of the service agent at a unit serves its threshold event if that is pending, else its end event if that is pending
and THR_RAW is 0, and else nothing. -/
def Obligations.ServiceStepTakesEligibleEvent : Prop :=
  ∀ (s : State) (turns : List Turn) (u : Fin 8), s.schedule = .service u :: turns → s.modelFault = none →
    ((s.unit u).thrRaw = true ∧ (s.unit u).thrEna = true →
      step s = exec (.eventThr u) { s with schedule := turns }) ∧
    ((s.unit u).thrRaw = false ∧ (s.unit u).endRaw = true ∧ (s.unit u).endEna = true →
      step s = exec (.eventEnd u) { s with schedule := turns }) ∧
    (¬ ((s.unit u).thrRaw = true ∧ (s.unit u).thrEna = true) →
      ¬ ((s.unit u).thrRaw = false ∧ (s.unit u).endRaw = true ∧ (s.unit u).endEna = true) →
      step s = .next { s with schedule := turns })

/-- A word of the opcode table placed by `withFetchWord` is what the very next step runs, whatever the state; the engine's
parameters, send states, phase and registers are those of the state it is placed in (log 14). -/
def Obligations.StepRunsPlacedWord : Prop :=
  ∀ (s : State) (nbits w : Nat) (i : Instr), decodeTableWord nbits w = some i →
    ∃ t : State, step (s.withFetchWord nbits w) = exec i t ∧
      t.cfg = s.cfg ∧ t.fault = s.fault ∧ t.initDone = s.initDone ∧ t.phase = s.phase ∧ t.chans = s.chans ∧
      t.nch = s.nch ∧ t.map = s.map ∧ t.program = s.program ∧ t.schedule = s.schedule

/-- R212, R15: once a model fault is marked, the next step of any agent stops with it (the model's convention: log 6). -/
def Obligations.ModelFaultStopsNextStep : Prop :=
  ∀ (s : State) (k : Fault), s.modelFault = some k → (∀ program, s.nextTurn ≠ .reset program) → step s = .fault k

/-! ### The whole machine -/

/-- The invariants hold after reset. -/
def Obligations.ResetMeetsInvariants : Prop :=
  ∀ p : Params, (State.resetWith p).Inv ∧ (State.resetWith p).HalfInv

/-- Every step keeps the memory canonical and within the two memories of R71. -/
def Obligations.StepKeepsMemory : Prop :=
  ∀ s t : State, s.ConfigInv → s.MemInv → step s = .next t → t.MemInv

/-- Every step keeps the configuration: INIT's once INIT_DONE is set, none before (R32); and once it is set, no step but reset changes
the count, the sizes, the mapping, a GPIO identifier, or anything of a unit but its run state and its record (R27, R28, R33, R43, R44,
R50, R217). -/
def Obligations.StepKeepsConfiguration : Prop :=
  ∀ s t : State, s.ConfigInv → step s = .next t →
    t.ConfigInv ∧
    (s.initDone = true → (∀ program, s.nextTurn ≠ .reset program) →
      t.initDone = true ∧ t.nch = s.nch ∧ t.bpc = s.bpc ∧ t.wp = s.wp ∧ t.map = s.map ∧ t.gpio = s.gpio ∧
      ∀ u : Fin 8, t.unit u = { s.unit u with
        active := (t.unit u).active, rdptr := (t.unit u).rdptr, cnt := (t.unit u).cnt
        thrRaw := (t.unit u).thrRaw, endRaw := (t.unit u).endRaw, wave := (t.unit u).wave })

/-- Every step keeps the bounds of the read positions and buffers, and the channels that are not configured as after reset (R35,
R36). -/
def Obligations.StepKeepsChannelBounds : Prop :=
  ∀ s t : State, s.ConfigInv → s.LifeInv → s.ChanInv → step s = .next t → t.ChanInv

/-- Every step keeps each used unit's read pointer in its region and its count below the limit (R45). -/
def Obligations.StepKeepsPointers : Prop :=
  ∀ s t : State, s.ConfigInv → s.PointerInv → step s = .next t → t.PointerInv

/-- Every step keeps the life of the channels in step with the render (R30, R39 to R41, R46); so SIG is NONE when ARM runs and CLEAR
when an end event is served (R184, R216). -/
def Obligations.StepKeepsChannelLife : Prop :=
  ∀ s t : State, s.ConfigInv → s.ChanInv → s.LifeInv → step s = .next t → t.LifeInv

/-- Every step that does not lose a threshold event keeps each sending unit reading the half that no pending refill will write, so a
refill fills the half just consumed (R164). A step that loses one leaves its unit about to read that half; from then on the unit's
next step, or a service of its event before that, is an UNDERRUN, and until then every step but reset leaves it so: no run without a
model fault goes on after a lost event. That the service is an UNDERRUN is the model's choice (log 12). -/
def Obligations.StepKeepsHalvesApart : Prop :=
  (∀ s t : State, s.ConfigInv → s.PointerInv → s.LifeInv → s.HalfInv → step s = .next t →
    (¬ s.LosingEvent → t.HalfInv) ∧
    ∀ u, s.LosesEvent u → (t.unit u).active = true → t.modelFault = none → t.EventLost u) ∧
  (∀ (s : State) (u : Fin 8), s.EventLost u →
    exec (.eventThr u) s = .next { s with modelFault := some .underrun } ∧
    (s.modelFault = none → s.nextTurn = .unit u ∨ (s.nextTurn = .service u ∧ (s.unit u).thrEna = true) →
      step s = .next { s.takeTurn with modelFault := some .underrun })) ∧
  ∀ (s t : State) (u : Fin 8), s.ConfigInv → s.LifeInv → s.EventLost u → step s = .next t →
    (∀ program, s.nextTurn ≠ .reset program) → s.nextTurn ≠ .unit u → s.nextTurn ≠ .service u → t.EventLost u

/-- R47: only a step of unit `v` appends to WAVE[v], and no step but reset removes from it. -/
def Obligations.OnlyUnitsAppendToWaves : Prop :=
  ∀ s t : State, step s = .next t → (∀ program, s.nextTurn ≠ .reset program) → ∀ v : Fin 8,
    (∃ phases, (t.unit v).wave = (s.unit v).wave ++ phases) ∧
    (s.nextTurn ≠ .unit v → (t.unit v).wave = (s.unit v).wave)

/-- R26, R210: the first fault stays until reset, and no step changes the machine's parameters (R9). -/
def Obligations.FirstFaultStays : Prop :=
  ∀ s t : State, step s = .next t →
    t.cfg = s.cfg ∧
    ((∀ program, s.nextTurn ≠ .reset program) → ∀ c, s.fault = some c → t.fault = some c)

/-- R52, R71: a byte of the pulse memory changes only in a PRIME the host issues, a threshold service, or reset. -/
def Obligations.OnlyCopiesWritePulseMemory : Prop :=
  ∀ s t : State, step s = .next t → (∀ program, s.nextTurn ≠ .reset program) →
    ∀ a, a < frameAddr 0 → Memory.read t.mem a ≠ Memory.read s.mem a →
      (s.nextTurn = .host ∧ s.phase = .loaded ∧ t.phase = .primed) ∨
      (∃ u, s.nextTurn = .service u ∧ (s.unit u).thrRaw = true ∧ (s.unit u).thrEna = true)

/-- A step of one unit touches no other unit, no channel, no memory, and none of the host's or the sequencer's state (R158 to R163,
R225). -/
def Obligations.UnitsAreIsolated : Prop :=
  ∀ (s t : State) (u : Fin 8), s.nextTurn = .unit u → step s = .next t →
    (∀ v : Fin 8, v ≠ u → t.unit v = s.unit v) ∧ t.chans = s.chans ∧ t.mem = s.mem ∧ t.fault = s.fault ∧
    t.phase = s.phase ∧ t.map = s.map ∧ t.gpio = s.gpio ∧ t.hold = s.hold ∧ t.program = s.program ∧ t.reads = s.reads

/-- R218: services of the events of two used units commute. -/
def Obligations.ServicesCommute : Prop :=
  ∀ (s : State) (u v : Fin 8), s.Configured → s.MemInv → u ≠ v → (s.unit u).used = true → (s.unit v).used = true →
    (s.serveThr u).serveThr v = (s.serveThr v).serveThr u ∧
    (s.serveThr u).serveEnd v = (s.serveEnd v).serveThr u ∧
    (s.serveEnd u).serveEnd v = (s.serveEnd v).serveEnd u

/-- A threshold event can be lost in a step that is no model fault, from a state that keeps every invariant (R49, R160): step 64 of
spec/95_test_vectors.md V-TX-8 reaches the limit with the event of the other half still pending. What then follows
StepKeepsHalvesApart says (log 12). -/
def Obligations.ThresholdEventCanBeLost : Prop :=
  ∃ s t : State, s.Inv ∧ s.HalfInv ∧ s.nextTurn = .unit 0 ∧ (s.unit 0).thrRaw = true ∧ step s = .next t ∧
    t.modelFault = none ∧ (t.unit 0).thrRaw = true ∧ (t.unit 0).cnt = 0#12 ∧ ¬ t.HalfInv

/-! ### What a render sends -/

/-- Every step taken while channel `i` holds its buffer, that does not reset the machine, keeps the channel's render on its way to
sending exactly the channel's stream, also a step that loses a threshold event or is a model fault; and a unit that has stopped has
raised the threshold events of R165 (R151, R164, R165, R167, R168). -/
def Obligations.StepKeepsStream : Prop :=
  ∀ (s t : State) (i : Fin 8) (before : List WavePhase), s.Inv → i.val < s.chanCount → (s.chan i).bufValid = true →
    (∀ program, s.nextTurn ≠ .reset program) → s.StreamInv i before → step s = .next t → t.StreamInv i before

/-- From a state of a render in which the invariants hold, a unit's step is no model fault but an underrun: every word it fetches has
been written and is not of class HALF; and none at all where no threshold event was lost (R157, R162, R163, R164). -/
def Obligations.UnitStepsRaiseNoModelFault : Prop :=
  ∀ (s : State) (i : Fin 8) (before : List WavePhase), s.Inv → i.val < s.chanCount → s.StreamInv i before →
    s.modelFault = none → s.nextTurn = .unit (s.unitOf i) →
    ∃ t : State, step s = .next t ∧ (t.modelFault = none ∨ t.modelFault = some .underrun) ∧ (s.HalfInv → t.modelFault = none)

/-- A render sends the channel's stream: from a loaded state that keeps the invariants, whatever the interleaving, as long as no model
fault stops it and the machine is not reset, the unit of channel `i` has at every moment driven a first part of EXPECTED of the
channel's buffer, and all of it when its end event is raised, when the completion signal is given and when the channel is released
(R135, R168, R186). When the signal is given 2 + T half-buffer writes have been made, one of them the flush: POS is LEN, DIRTY is 0
and SEL is the parity of T = LEN div BPH (R165, R167; that a service after a lost event is a model fault is log 12). -/
def Obligations.RenderSendsStream : Prop :=
  ∀ (s t : State) (i : Fin 8), s.Inv → s.phase = .loaded → i.val < s.chanCount → State.Renders i s t →
    t.unitOf i = s.unitOf i ∧ (t.chan i).enc = (s.chan i).enc ∧
    (∃ k, (t.unit (s.unitOf i)).wave =
      (s.unit (s.unitOf i)).wave ++ (expected s.cfg (s.chan i).enc).take k) ∧
    ((t.unit (s.unitOf i)).endRaw = true ∨ (t.chan i).sig = .set ∨ (t.chan i).bufValid = false →
      (t.unit (s.unitOf i)).wave = (s.unit (s.unitOf i)).wave ++ expected s.cfg (s.chan i).enc) ∧
    ((t.chan i).sig = .set ∨ (t.chan i).bufValid = false →
      (t.chan i).pos.toNat = (s.chan i).len ∧ (t.chan i).dirty = false ∧
      (t.chan i).sel = decide ((s.chan i).len / s.halfBytes % 2 = 1))
end

