-- ==== Sys2Proof/Laws/State.lean ====
section
/-! SUPPORT. What every named update of the state does to every field, so that no proof unfolds a record update. -/

namespace Sys2Proof.Machine

/-! ### Reading a channel, a unit, a map entry -/

@[simp] theorem State.chan_mk (i : Fin 8)
    {cfg' fault' modelFault' initDone' phase' nch' bpc' wp' map' gpio' chans' units' mem' txUnit' hold' program' reads' schedule' choices'} :
    (State.mk cfg' fault' modelFault' initDone' phase' nch' bpc' wp' map' gpio' chans' units' mem' txUnit' hold' program' reads' schedule' choices').chan i = chans'[i.val] := rfl

@[simp] theorem State.unit_mk (u : Fin 8)
    {cfg' fault' modelFault' initDone' phase' nch' bpc' wp' map' gpio' chans' units' mem' txUnit' hold' program' reads' schedule' choices'} :
    (State.mk cfg' fault' modelFault' initDone' phase' nch' bpc' wp' map' gpio' chans' units' mem' txUnit' hold' program' reads' schedule' choices').unit u = units'[u.val] := rfl

@[simp] theorem State.unitOf_mk (i : Fin 8)
    {cfg' fault' modelFault' initDone' phase' nch' bpc' wp' map' gpio' chans' units' mem' txUnit' hold' program' reads' schedule' choices'} :
    (State.mk cfg' fault' modelFault' initDone' phase' nch' bpc' wp' map' gpio' chans' units' mem' txUnit' hold' program' reads' schedule' choices').unitOf i = map'[i.val] := rfl

@[simp] theorem State.chans_getElem (s : State) (i : Fin 8) : s.chans[i.val] = s.chan i := rfl

@[simp] theorem State.units_getElem (s : State) (u : Fin 8) : s.units[u.val] = s.unit u := rfl

@[simp] theorem State.map_getElem (s : State) (i : Fin 8) : s.map[i.val] = s.unitOf i := rfl

@[simp] theorem State.chan_updChans (s : State) (f : Fin 8 → Chan → Chan) (i : Fin 8) :
    (s.updChans f).chan i = f i (s.chan i) := by
  simp [State.updChans]

@[simp] theorem State.unit_updUnits (s : State) (f : Fin 8 → TxUnit → TxUnit) (u : Fin 8) :
    (s.updUnits f).unit u = f u (s.unit u) := by
  simp [State.updUnits]

@[simp] theorem State.chan_updChan (s : State) (j : Fin 8) (f : Chan → Chan) (i : Fin 8) :
    (s.updChan j f).chan i = if i = j then f (s.chan i) else s.chan i := by
  simp [State.updChan]

@[simp] theorem State.unit_updUnit (s : State) (v : Fin 8) (f : TxUnit → TxUnit) (u : Fin 8) :
    (s.updUnit v f).unit u = if u = v then f (s.unit u) else s.unit u := by
  simp [State.updUnit]

/-- Two states' channels are equal when each of them is. -/
theorem State.chans_ext {s t : State} (h : ∀ i, s.chan i = t.chan i) : s.chans = t.chans := by
  apply Vector.ext
  intro i hi
  exact h ⟨i, hi⟩

/-- Two states' units are equal when each of them is. -/
theorem State.units_ext {s t : State} (h : ∀ u, s.unit u = t.unit u) : s.units = t.units := by
  apply Vector.ext
  intro u hu
  exact h ⟨u, hu⟩

/-! ### updChans -/

@[simp] theorem State.updChans_cfg (s : State) (f : Fin 8 → Chan → Chan) : (s.updChans f).cfg = s.cfg := rfl

@[simp] theorem State.updChans_fault (s : State) (f : Fin 8 → Chan → Chan) : (s.updChans f).fault = s.fault := rfl

@[simp] theorem State.updChans_modelFault (s : State) (f : Fin 8 → Chan → Chan) : (s.updChans f).modelFault = s.modelFault := rfl

@[simp] theorem State.updChans_initDone (s : State) (f : Fin 8 → Chan → Chan) : (s.updChans f).initDone = s.initDone := rfl

@[simp] theorem State.updChans_phase (s : State) (f : Fin 8 → Chan → Chan) : (s.updChans f).phase = s.phase := rfl

@[simp] theorem State.updChans_nch (s : State) (f : Fin 8 → Chan → Chan) : (s.updChans f).nch = s.nch := rfl

@[simp] theorem State.updChans_bpc (s : State) (f : Fin 8 → Chan → Chan) : (s.updChans f).bpc = s.bpc := rfl

@[simp] theorem State.updChans_wp (s : State) (f : Fin 8 → Chan → Chan) : (s.updChans f).wp = s.wp := rfl

@[simp] theorem State.updChans_map (s : State) (f : Fin 8 → Chan → Chan) : (s.updChans f).map = s.map := rfl

@[simp] theorem State.updChans_gpio (s : State) (f : Fin 8 → Chan → Chan) : (s.updChans f).gpio = s.gpio := rfl

@[simp] theorem State.updChans_units (s : State) (f : Fin 8 → Chan → Chan) : (s.updChans f).units = s.units := rfl

@[simp] theorem State.updChans_mem (s : State) (f : Fin 8 → Chan → Chan) : (s.updChans f).mem = s.mem := rfl

@[simp] theorem State.updChans_txUnit (s : State) (f : Fin 8 → Chan → Chan) : (s.updChans f).txUnit = s.txUnit := rfl

@[simp] theorem State.updChans_hold (s : State) (f : Fin 8 → Chan → Chan) : (s.updChans f).hold = s.hold := rfl

@[simp] theorem State.updChans_program (s : State) (f : Fin 8 → Chan → Chan) : (s.updChans f).program = s.program := rfl

@[simp] theorem State.updChans_reads (s : State) (f : Fin 8 → Chan → Chan) : (s.updChans f).reads = s.reads := rfl

@[simp] theorem State.updChans_schedule (s : State) (f : Fin 8 → Chan → Chan) : (s.updChans f).schedule = s.schedule := rfl

@[simp] theorem State.updChans_choices (s : State) (f : Fin 8 → Chan → Chan) : (s.updChans f).choices = s.choices := rfl

@[simp] theorem State.updChans_unit (s : State) (f : Fin 8 → Chan → Chan) (k : Fin 8) :
    (s.updChans f).unit k = s.unit k := rfl

@[simp] theorem State.updChans_unitOf (s : State) (f : Fin 8 → Chan → Chan) (k : Fin 8) :
    (s.updChans f).unitOf k = s.unitOf k := rfl

/-! ### updUnits -/

@[simp] theorem State.updUnits_cfg (s : State) (f : Fin 8 → TxUnit → TxUnit) : (s.updUnits f).cfg = s.cfg := rfl

@[simp] theorem State.updUnits_fault (s : State) (f : Fin 8 → TxUnit → TxUnit) : (s.updUnits f).fault = s.fault := rfl

@[simp] theorem State.updUnits_modelFault (s : State) (f : Fin 8 → TxUnit → TxUnit) : (s.updUnits f).modelFault = s.modelFault := rfl

@[simp] theorem State.updUnits_initDone (s : State) (f : Fin 8 → TxUnit → TxUnit) : (s.updUnits f).initDone = s.initDone := rfl

@[simp] theorem State.updUnits_phase (s : State) (f : Fin 8 → TxUnit → TxUnit) : (s.updUnits f).phase = s.phase := rfl

@[simp] theorem State.updUnits_nch (s : State) (f : Fin 8 → TxUnit → TxUnit) : (s.updUnits f).nch = s.nch := rfl

@[simp] theorem State.updUnits_bpc (s : State) (f : Fin 8 → TxUnit → TxUnit) : (s.updUnits f).bpc = s.bpc := rfl

@[simp] theorem State.updUnits_wp (s : State) (f : Fin 8 → TxUnit → TxUnit) : (s.updUnits f).wp = s.wp := rfl

@[simp] theorem State.updUnits_map (s : State) (f : Fin 8 → TxUnit → TxUnit) : (s.updUnits f).map = s.map := rfl

@[simp] theorem State.updUnits_gpio (s : State) (f : Fin 8 → TxUnit → TxUnit) : (s.updUnits f).gpio = s.gpio := rfl

@[simp] theorem State.updUnits_chans (s : State) (f : Fin 8 → TxUnit → TxUnit) : (s.updUnits f).chans = s.chans := rfl

@[simp] theorem State.updUnits_mem (s : State) (f : Fin 8 → TxUnit → TxUnit) : (s.updUnits f).mem = s.mem := rfl

@[simp] theorem State.updUnits_txUnit (s : State) (f : Fin 8 → TxUnit → TxUnit) : (s.updUnits f).txUnit = s.txUnit := rfl

@[simp] theorem State.updUnits_hold (s : State) (f : Fin 8 → TxUnit → TxUnit) : (s.updUnits f).hold = s.hold := rfl

@[simp] theorem State.updUnits_program (s : State) (f : Fin 8 → TxUnit → TxUnit) : (s.updUnits f).program = s.program := rfl

@[simp] theorem State.updUnits_reads (s : State) (f : Fin 8 → TxUnit → TxUnit) : (s.updUnits f).reads = s.reads := rfl

@[simp] theorem State.updUnits_schedule (s : State) (f : Fin 8 → TxUnit → TxUnit) : (s.updUnits f).schedule = s.schedule := rfl

@[simp] theorem State.updUnits_choices (s : State) (f : Fin 8 → TxUnit → TxUnit) : (s.updUnits f).choices = s.choices := rfl

@[simp] theorem State.updUnits_chan (s : State) (f : Fin 8 → TxUnit → TxUnit) (k : Fin 8) :
    (s.updUnits f).chan k = s.chan k := rfl

@[simp] theorem State.updUnits_unitOf (s : State) (f : Fin 8 → TxUnit → TxUnit) (k : Fin 8) :
    (s.updUnits f).unitOf k = s.unitOf k := rfl

/-! ### updChan -/

@[simp] theorem State.updChan_cfg (s : State) (i : Fin 8) (f : Chan → Chan) : (s.updChan i f).cfg = s.cfg := rfl

@[simp] theorem State.updChan_fault (s : State) (i : Fin 8) (f : Chan → Chan) : (s.updChan i f).fault = s.fault := rfl

@[simp] theorem State.updChan_modelFault (s : State) (i : Fin 8) (f : Chan → Chan) : (s.updChan i f).modelFault = s.modelFault := rfl

@[simp] theorem State.updChan_initDone (s : State) (i : Fin 8) (f : Chan → Chan) : (s.updChan i f).initDone = s.initDone := rfl

@[simp] theorem State.updChan_phase (s : State) (i : Fin 8) (f : Chan → Chan) : (s.updChan i f).phase = s.phase := rfl

@[simp] theorem State.updChan_nch (s : State) (i : Fin 8) (f : Chan → Chan) : (s.updChan i f).nch = s.nch := rfl

@[simp] theorem State.updChan_bpc (s : State) (i : Fin 8) (f : Chan → Chan) : (s.updChan i f).bpc = s.bpc := rfl

@[simp] theorem State.updChan_wp (s : State) (i : Fin 8) (f : Chan → Chan) : (s.updChan i f).wp = s.wp := rfl

@[simp] theorem State.updChan_map (s : State) (i : Fin 8) (f : Chan → Chan) : (s.updChan i f).map = s.map := rfl

@[simp] theorem State.updChan_gpio (s : State) (i : Fin 8) (f : Chan → Chan) : (s.updChan i f).gpio = s.gpio := rfl

@[simp] theorem State.updChan_units (s : State) (i : Fin 8) (f : Chan → Chan) : (s.updChan i f).units = s.units := rfl

@[simp] theorem State.updChan_mem (s : State) (i : Fin 8) (f : Chan → Chan) : (s.updChan i f).mem = s.mem := rfl

@[simp] theorem State.updChan_txUnit (s : State) (i : Fin 8) (f : Chan → Chan) : (s.updChan i f).txUnit = s.txUnit := rfl

@[simp] theorem State.updChan_hold (s : State) (i : Fin 8) (f : Chan → Chan) : (s.updChan i f).hold = s.hold := rfl

@[simp] theorem State.updChan_program (s : State) (i : Fin 8) (f : Chan → Chan) : (s.updChan i f).program = s.program := rfl

@[simp] theorem State.updChan_reads (s : State) (i : Fin 8) (f : Chan → Chan) : (s.updChan i f).reads = s.reads := rfl

@[simp] theorem State.updChan_schedule (s : State) (i : Fin 8) (f : Chan → Chan) : (s.updChan i f).schedule = s.schedule := rfl

@[simp] theorem State.updChan_choices (s : State) (i : Fin 8) (f : Chan → Chan) : (s.updChan i f).choices = s.choices := rfl

@[simp] theorem State.updChan_unit (s : State) (i : Fin 8) (f : Chan → Chan) (k : Fin 8) :
    (s.updChan i f).unit k = s.unit k := rfl

@[simp] theorem State.updChan_unitOf (s : State) (i : Fin 8) (f : Chan → Chan) (k : Fin 8) :
    (s.updChan i f).unitOf k = s.unitOf k := rfl

/-! ### updUnit -/

@[simp] theorem State.updUnit_cfg (s : State) (u : Fin 8) (f : TxUnit → TxUnit) : (s.updUnit u f).cfg = s.cfg := rfl

@[simp] theorem State.updUnit_fault (s : State) (u : Fin 8) (f : TxUnit → TxUnit) : (s.updUnit u f).fault = s.fault := rfl

@[simp] theorem State.updUnit_modelFault (s : State) (u : Fin 8) (f : TxUnit → TxUnit) : (s.updUnit u f).modelFault = s.modelFault := rfl

@[simp] theorem State.updUnit_initDone (s : State) (u : Fin 8) (f : TxUnit → TxUnit) : (s.updUnit u f).initDone = s.initDone := rfl

@[simp] theorem State.updUnit_phase (s : State) (u : Fin 8) (f : TxUnit → TxUnit) : (s.updUnit u f).phase = s.phase := rfl

@[simp] theorem State.updUnit_nch (s : State) (u : Fin 8) (f : TxUnit → TxUnit) : (s.updUnit u f).nch = s.nch := rfl

@[simp] theorem State.updUnit_bpc (s : State) (u : Fin 8) (f : TxUnit → TxUnit) : (s.updUnit u f).bpc = s.bpc := rfl

@[simp] theorem State.updUnit_wp (s : State) (u : Fin 8) (f : TxUnit → TxUnit) : (s.updUnit u f).wp = s.wp := rfl

@[simp] theorem State.updUnit_map (s : State) (u : Fin 8) (f : TxUnit → TxUnit) : (s.updUnit u f).map = s.map := rfl

@[simp] theorem State.updUnit_gpio (s : State) (u : Fin 8) (f : TxUnit → TxUnit) : (s.updUnit u f).gpio = s.gpio := rfl

@[simp] theorem State.updUnit_chans (s : State) (u : Fin 8) (f : TxUnit → TxUnit) : (s.updUnit u f).chans = s.chans := rfl

@[simp] theorem State.updUnit_mem (s : State) (u : Fin 8) (f : TxUnit → TxUnit) : (s.updUnit u f).mem = s.mem := rfl

@[simp] theorem State.updUnit_txUnit (s : State) (u : Fin 8) (f : TxUnit → TxUnit) : (s.updUnit u f).txUnit = s.txUnit := rfl

@[simp] theorem State.updUnit_hold (s : State) (u : Fin 8) (f : TxUnit → TxUnit) : (s.updUnit u f).hold = s.hold := rfl

@[simp] theorem State.updUnit_program (s : State) (u : Fin 8) (f : TxUnit → TxUnit) : (s.updUnit u f).program = s.program := rfl

@[simp] theorem State.updUnit_reads (s : State) (u : Fin 8) (f : TxUnit → TxUnit) : (s.updUnit u f).reads = s.reads := rfl

@[simp] theorem State.updUnit_schedule (s : State) (u : Fin 8) (f : TxUnit → TxUnit) : (s.updUnit u f).schedule = s.schedule := rfl

@[simp] theorem State.updUnit_choices (s : State) (u : Fin 8) (f : TxUnit → TxUnit) : (s.updUnit u f).choices = s.choices := rfl

@[simp] theorem State.updUnit_chan (s : State) (u : Fin 8) (f : TxUnit → TxUnit) (k : Fin 8) :
    (s.updUnit u f).chan k = s.chan k := rfl

@[simp] theorem State.updUnit_unitOf (s : State) (u : Fin 8) (f : TxUnit → TxUnit) (k : Fin 8) :
    (s.updUnit u f).unitOf k = s.unitOf k := rfl

/-! ### returnRead -/

@[simp] theorem State.returnRead_cfg (s : State) (v : Word) : (s.returnRead v).cfg = s.cfg := rfl

@[simp] theorem State.returnRead_fault (s : State) (v : Word) : (s.returnRead v).fault = s.fault := rfl

@[simp] theorem State.returnRead_modelFault (s : State) (v : Word) : (s.returnRead v).modelFault = s.modelFault := rfl

@[simp] theorem State.returnRead_initDone (s : State) (v : Word) : (s.returnRead v).initDone = s.initDone := rfl

@[simp] theorem State.returnRead_phase (s : State) (v : Word) : (s.returnRead v).phase = s.phase := rfl

@[simp] theorem State.returnRead_nch (s : State) (v : Word) : (s.returnRead v).nch = s.nch := rfl

@[simp] theorem State.returnRead_bpc (s : State) (v : Word) : (s.returnRead v).bpc = s.bpc := rfl

@[simp] theorem State.returnRead_wp (s : State) (v : Word) : (s.returnRead v).wp = s.wp := rfl

@[simp] theorem State.returnRead_map (s : State) (v : Word) : (s.returnRead v).map = s.map := rfl

@[simp] theorem State.returnRead_gpio (s : State) (v : Word) : (s.returnRead v).gpio = s.gpio := rfl

@[simp] theorem State.returnRead_chans (s : State) (v : Word) : (s.returnRead v).chans = s.chans := rfl

@[simp] theorem State.returnRead_units (s : State) (v : Word) : (s.returnRead v).units = s.units := rfl

@[simp] theorem State.returnRead_mem (s : State) (v : Word) : (s.returnRead v).mem = s.mem := rfl

@[simp] theorem State.returnRead_txUnit (s : State) (v : Word) : (s.returnRead v).txUnit = s.txUnit := rfl

@[simp] theorem State.returnRead_hold (s : State) (v : Word) : (s.returnRead v).hold = s.hold := rfl

@[simp] theorem State.returnRead_program (s : State) (v : Word) : (s.returnRead v).program = s.program := rfl

@[simp] theorem State.returnRead_schedule (s : State) (v : Word) : (s.returnRead v).schedule = s.schedule := rfl

@[simp] theorem State.returnRead_choices (s : State) (v : Word) : (s.returnRead v).choices = s.choices := rfl

@[simp] theorem State.returnRead_chan (s : State) (v : Word) (k : Fin 8) :
    (s.returnRead v).chan k = s.chan k := rfl

@[simp] theorem State.returnRead_unit (s : State) (v : Word) (k : Fin 8) :
    (s.returnRead v).unit k = s.unit k := rfl

@[simp] theorem State.returnRead_unitOf (s : State) (v : Word) (k : Fin 8) :
    (s.returnRead v).unitOf k = s.unitOf k := rfl

/-! ### recordFault -/

@[simp] theorem State.recordFault_cfg (s : State) (c : FaultCode) : (s.recordFault c).cfg = s.cfg := by
  unfold State.recordFault; split <;> rfl

@[simp] theorem State.recordFault_modelFault (s : State) (c : FaultCode) : (s.recordFault c).modelFault = s.modelFault := by
  unfold State.recordFault; split <;> rfl

@[simp] theorem State.recordFault_initDone (s : State) (c : FaultCode) : (s.recordFault c).initDone = s.initDone := by
  unfold State.recordFault; split <;> rfl

@[simp] theorem State.recordFault_phase (s : State) (c : FaultCode) : (s.recordFault c).phase = s.phase := by
  unfold State.recordFault; split <;> rfl

@[simp] theorem State.recordFault_nch (s : State) (c : FaultCode) : (s.recordFault c).nch = s.nch := by
  unfold State.recordFault; split <;> rfl

@[simp] theorem State.recordFault_bpc (s : State) (c : FaultCode) : (s.recordFault c).bpc = s.bpc := by
  unfold State.recordFault; split <;> rfl

@[simp] theorem State.recordFault_wp (s : State) (c : FaultCode) : (s.recordFault c).wp = s.wp := by
  unfold State.recordFault; split <;> rfl

@[simp] theorem State.recordFault_map (s : State) (c : FaultCode) : (s.recordFault c).map = s.map := by
  unfold State.recordFault; split <;> rfl

@[simp] theorem State.recordFault_gpio (s : State) (c : FaultCode) : (s.recordFault c).gpio = s.gpio := by
  unfold State.recordFault; split <;> rfl

@[simp] theorem State.recordFault_chans (s : State) (c : FaultCode) : (s.recordFault c).chans = s.chans := by
  unfold State.recordFault; split <;> rfl

@[simp] theorem State.recordFault_units (s : State) (c : FaultCode) : (s.recordFault c).units = s.units := by
  unfold State.recordFault; split <;> rfl

@[simp] theorem State.recordFault_mem (s : State) (c : FaultCode) : (s.recordFault c).mem = s.mem := by
  unfold State.recordFault; split <;> rfl

@[simp] theorem State.recordFault_txUnit (s : State) (c : FaultCode) : (s.recordFault c).txUnit = s.txUnit := by
  unfold State.recordFault; split <;> rfl

@[simp] theorem State.recordFault_hold (s : State) (c : FaultCode) : (s.recordFault c).hold = s.hold := by
  unfold State.recordFault; split <;> rfl

@[simp] theorem State.recordFault_program (s : State) (c : FaultCode) : (s.recordFault c).program = s.program := by
  unfold State.recordFault; split <;> rfl

@[simp] theorem State.recordFault_reads (s : State) (c : FaultCode) : (s.recordFault c).reads = s.reads := by
  unfold State.recordFault; split <;> rfl

@[simp] theorem State.recordFault_schedule (s : State) (c : FaultCode) : (s.recordFault c).schedule = s.schedule := by
  unfold State.recordFault; split <;> rfl

@[simp] theorem State.recordFault_choices (s : State) (c : FaultCode) : (s.recordFault c).choices = s.choices := by
  unfold State.recordFault; split <;> rfl

@[simp] theorem State.recordFault_chan (s : State) (c : FaultCode) (k : Fin 8) :
    (s.recordFault c).chan k = s.chan k := by
  unfold State.recordFault; split <;> rfl

@[simp] theorem State.recordFault_unit (s : State) (c : FaultCode) (k : Fin 8) :
    (s.recordFault c).unit k = s.unit k := by
  unfold State.recordFault; split <;> rfl

@[simp] theorem State.recordFault_unitOf (s : State) (c : FaultCode) (k : Fin 8) :
    (s.recordFault c).unitOf k = s.unitOf k := by
  unfold State.recordFault; split <;> rfl

/-- The first fault stays (R210). -/
theorem State.recordFault_fault (s : State) (c : FaultCode) : (s.recordFault c).fault = some (s.fault.getD c) := by
  unfold State.recordFault; split <;> simp_all

@[simp] theorem State.recordFault_halted (s : State) (c : FaultCode) : (s.recordFault c).halted = true := by
  simp [State.halted, State.recordFault_fault]

/-! ### takeTurn -/

@[simp] theorem State.takeTurn_cfg (s : State) : s.takeTurn.cfg = s.cfg := by
  unfold State.takeTurn; split <;> rfl

@[simp] theorem State.takeTurn_fault (s : State) : s.takeTurn.fault = s.fault := by
  unfold State.takeTurn; split <;> rfl

@[simp] theorem State.takeTurn_modelFault (s : State) : s.takeTurn.modelFault = s.modelFault := by
  unfold State.takeTurn; split <;> rfl

@[simp] theorem State.takeTurn_initDone (s : State) : s.takeTurn.initDone = s.initDone := by
  unfold State.takeTurn; split <;> rfl

@[simp] theorem State.takeTurn_phase (s : State) : s.takeTurn.phase = s.phase := by
  unfold State.takeTurn; split <;> rfl

@[simp] theorem State.takeTurn_nch (s : State) : s.takeTurn.nch = s.nch := by
  unfold State.takeTurn; split <;> rfl

@[simp] theorem State.takeTurn_bpc (s : State) : s.takeTurn.bpc = s.bpc := by
  unfold State.takeTurn; split <;> rfl

@[simp] theorem State.takeTurn_wp (s : State) : s.takeTurn.wp = s.wp := by
  unfold State.takeTurn; split <;> rfl

@[simp] theorem State.takeTurn_map (s : State) : s.takeTurn.map = s.map := by
  unfold State.takeTurn; split <;> rfl

@[simp] theorem State.takeTurn_gpio (s : State) : s.takeTurn.gpio = s.gpio := by
  unfold State.takeTurn; split <;> rfl

@[simp] theorem State.takeTurn_chans (s : State) : s.takeTurn.chans = s.chans := by
  unfold State.takeTurn; split <;> rfl

@[simp] theorem State.takeTurn_units (s : State) : s.takeTurn.units = s.units := by
  unfold State.takeTurn; split <;> rfl

@[simp] theorem State.takeTurn_mem (s : State) : s.takeTurn.mem = s.mem := by
  unfold State.takeTurn; split <;> rfl

@[simp] theorem State.takeTurn_txUnit (s : State) : s.takeTurn.txUnit = s.txUnit := by
  unfold State.takeTurn; split <;> rfl

@[simp] theorem State.takeTurn_hold (s : State) : s.takeTurn.hold = s.hold := by
  unfold State.takeTurn; split <;> rfl

@[simp] theorem State.takeTurn_program (s : State) : s.takeTurn.program = s.program := by
  unfold State.takeTurn; split <;> rfl

@[simp] theorem State.takeTurn_reads (s : State) : s.takeTurn.reads = s.reads := by
  unfold State.takeTurn; split <;> rfl

@[simp] theorem State.takeTurn_chan (s : State) (k : Fin 8) : s.takeTurn.chan k = s.chan k := by
  unfold State.takeTurn; split <;> rfl

@[simp] theorem State.takeTurn_unit (s : State) (k : Fin 8) : s.takeTurn.unit k = s.unit k := by
  unfold State.takeTurn; split <;> rfl

@[simp] theorem State.takeTurn_unitOf (s : State) (k : Fin 8) : s.takeTurn.unitOf k = s.unitOf k := by
  unfold State.takeTurn; split <;> rfl

/-! ### Reset -/

@[simp] theorem State.chan_resetWith (p : Params) (i : Fin 8) : (State.resetWith p).chan i = Chan.reset := by
  fin_cases i <;> rfl

@[simp] theorem State.unit_resetWith (p : Params) (u : Fin 8) : (State.resetWith p).unit u = TxUnit.reset := by
  fin_cases u <;> rfl

@[simp] theorem State.unitOf_resetWith (p : Params) (i : Fin 8) : (State.resetWith p).unitOf i = 0 := by
  fin_cases i <;> rfl

@[simp] theorem State.gpio_resetWith (p : Params) (i : Fin 8) : (State.resetWith p).gpio[i] = 0#8 := by
  fin_cases i <;> rfl

end Sys2Proof.Machine
end

