-- ==== Sys2Proof/Laws/Memory.lean ====
section
/-! SUPPORT. What the memory operations do: read after write, the canonical form, and how writes of bytes and words combine. -/

namespace Sys2Proof.Machine

/-! ### One byte -/

theorem Memory.read_write (m : Memory) (a : Nat) (b : Byte) (c : Nat) :
    Memory.read (Memory.write m a b) c = if a = c then some b else Memory.read m c := by
  induction m with
  | nil => simp [Memory.write, Memory.read]
  | cons x m ih =>
    obtain ⟨k, d⟩ := x
    simp only [Memory.write]
    split
    · simp [Memory.read]
    · split
      · subst_vars; simp only [Memory.read]; split <;> rfl
      · rename_i h1 h2
        simp only [Memory.read, ih]
        split
        · rename_i h3; subst h3; simp [h2]
        · rfl

@[simp] theorem Memory.read_write_same (m : Memory) (a : Nat) (b : Byte) :
    Memory.read (Memory.write m a b) a = some b := by
  simp [Memory.read_write]

theorem Memory.read_write_other (m : Memory) {a c : Nat} (b : Byte) (h : a ≠ c) :
    Memory.read (Memory.write m a b) c = Memory.read m c := by
  simp [Memory.read_write, h]

/-- The addresses a write lists are the old ones and the one written. -/
theorem Memory.mem_write {m : Memory} {a : Nat} {b : Byte} {x : Host.Cell} (h : x ∈ Memory.write m a b) :
    x = (a, b) ∨ x ∈ m := by
  induction m with
  | nil => simpa [Memory.write] using h
  | cons y m ih =>
    obtain ⟨k, d⟩ := y
    simp only [Memory.write] at h
    split at h
    · simpa using h
    · split at h
      · rcases List.mem_cons.mp h with h | h
        · exact .inl h
        · exact .inr (List.mem_cons_of_mem _ h)
      · rcases List.mem_cons.mp h with h | h
        · exact .inr (by simp [h])
        · exact (ih h).imp id (List.mem_cons_of_mem _)

/-- A write keeps the canonical form. -/
theorem Memory.write_wf {m : Memory} (h : Memory.wf m) (a : Nat) (b : Byte) : Memory.wf (Memory.write m a b) := by
  induction m with
  | nil => simp [Memory.write, Memory.wf]
  | cons y m ih =>
    obtain ⟨k, d⟩ := y
    obtain ⟨hk, hm⟩ := List.pairwise_cons.mp h
    simp only [Memory.write]
    split
    · rename_i hlt
      refine List.pairwise_cons.mpr ⟨fun x hx => ?_, h⟩
      rcases List.mem_cons.mp hx with rfl | hx
      · exact hlt
      · exact Nat.lt_trans hlt (hk x hx)
    · split
      · subst_vars
        exact List.pairwise_cons.mpr ⟨hk, hm⟩
      · refine List.pairwise_cons.mpr ⟨fun x hx => ?_, ih hm⟩
        rcases Memory.mem_write hx with rfl | hx
        · simp only; omega
        · exact hk x hx

/-- A listed byte is what a read of a canonical memory gives. -/
theorem Memory.read_eq_some_iff {m : Memory} (h : Memory.wf m) (a : Nat) (b : Byte) :
    Memory.read m a = some b ↔ (a, b) ∈ m := by
  induction m with
  | nil => simp [Memory.read]
  | cons y m ih =>
    obtain ⟨k, d⟩ := y
    obtain ⟨hk, hm⟩ := List.pairwise_cons.mp h
    simp only [Memory.read]
    split
    · subst_vars
      constructor
      · intro e; simp_all
      · intro hmem
        rcases List.mem_cons.mp hmem with e | hmem
        · simp_all
        · exact absurd (hk _ hmem) (by simp)
    · rename_i hne
      rw [ih hm]
      constructor
      · exact List.mem_cons_of_mem _
      · intro hmem
        rcases List.mem_cons.mp hmem with e | hmem
        · simp_all
        · exact hmem

/-- Two canonical memories that read alike are equal. -/
theorem Memory.ext {m n : Memory} (hm : Memory.wf m) (hn : Memory.wf n)
    (h : ∀ a, Memory.read m a = Memory.read n a) : m = n := by
  have sub : ∀ x, x ∈ m ↔ x ∈ n := by
    rintro ⟨a, b⟩
    rw [← Memory.read_eq_some_iff hm, ← Memory.read_eq_some_iff hn, h]
  have nodup : ∀ {l : Memory}, Memory.wf l → l.Nodup := fun hl =>
    hl.imp fun hlt e => by simp [e] at hlt
  refine ((List.perm_ext_iff_of_nodup (nodup hm) (nodup hn)).mpr sub).eq_of_pairwise ?_ hm hn
  intro x y _ _ hxy hyx
  omega

/-! ### Several bytes -/

theorem Memory.writeBytes_wf {bs : List Byte} : ∀ {m : Memory} {a : Nat}, Memory.wf m →
    Memory.wf (Memory.writeBytes m a bs) := by
  induction bs with
  | nil => intro m a h; exact h
  | cons b bs ih => intro m a h; exact ih (Memory.write_wf h a b)

/-- After a write of several bytes, an address among them reads its byte and any other reads as before. -/
theorem Memory.read_writeBytes (bs : List Byte) : ∀ (m : Memory) (a c : Nat),
    Memory.read (Memory.writeBytes m a bs) c =
      if a ≤ c ∧ c < a + bs.length then bs[c - a]? else Memory.read m c := by
  induction bs with
  | nil => intro m a c; simp [Memory.writeBytes]
  | cons b bs ih =>
    intro m a c
    simp only [Memory.writeBytes, ih, Memory.read_write, List.length_cons]
    by_cases h : a = c
    · subst h; simp
    · by_cases h2 : a + 1 ≤ c ∧ c < a + 1 + bs.length
      · rw [if_pos h2, if_pos (by omega)]
        obtain ⟨k, hk⟩ : ∃ k, c - a = k + 1 := ⟨c - a - 1, by omega⟩
        rw [hk, List.getElem?_cons_succ]
        congr 1; omega
      · rw [if_neg h2, if_neg h, if_neg (by omega)]

theorem Memory.mem_writeBytes {bs : List Byte} : ∀ {m : Memory} {a : Nat} {x : Host.Cell},
    x ∈ Memory.writeBytes m a bs → (a ≤ x.1 ∧ x.1 < a + bs.length) ∨ x ∈ m := by
  induction bs with
  | nil => intro m a x h; exact .inr h
  | cons b bs ih =>
    intro m a x h
    rcases ih h with h | h
    · left; simp only [List.length_cons]; omega
    · rcases Memory.mem_write h with rfl | h
      · left; simp
      · exact .inr h

/-- What a read of several bytes gives: all of them initialised, in order. -/
theorem Memory.readBytes_eq_some_iff (m : Memory) : ∀ (n a : Nat) (bs : List Byte),
    Memory.readBytes m a n = some bs ↔ bs.length = n ∧ ∀ k < n, Memory.read m (a + k) = bs[k]? := by
  intro n
  induction n with
  | zero =>
    intro a bs
    simp [Memory.readBytes, eq_comm (a := ([] : List Byte))]
  | succ n ih =>
    intro a bs
    simp only [Memory.readBytes]
    constructor
    · intro h
      split at h
      · rename_i b bs' hb hbs
        cases h
        obtain ⟨hl, hk⟩ := (ih _ _).mp hbs
        refine ⟨by simp [hl], fun k hk' => ?_⟩
        cases k with
        | zero => simpa using hb
        | succ k => simpa [Nat.add_assoc, Nat.add_comm 1 k] using hk k (by omega)
      · cases h
    · rintro ⟨hl, hk⟩
      cases bs with
      | nil => simp at hl
      | cons b bs' =>
        have h0 : Memory.read m a = some b := by simpa using hk 0 (by omega)
        have h1 : Memory.readBytes m (a + 1) n = some bs' := by
          refine (ih _ _).mpr ⟨by simpa using hl, fun k hk' => ?_⟩
          simpa [Nat.add_assoc, Nat.add_comm 1 k] using hk (k + 1) (by omega)
        simp [h0, h1]

/-- A read of several bytes fails iff one of them is uninitialised. -/
theorem Memory.readBytes_eq_none_iff (m : Memory) : ∀ (n a : Nat),
    Memory.readBytes m a n = none ↔ ∃ k < n, Memory.read m (a + k) = none := by
  intro n
  induction n with
  | zero => intro a; simp [Memory.readBytes]
  | succ n ih =>
    intro a
    simp only [Memory.readBytes]
    constructor
    · intro h
      cases h0 : Memory.read m a with
      | none => exact ⟨0, by omega, by simpa using h0⟩
      | some b =>
        cases h1 : Memory.readBytes m (a + 1) n with
        | none =>
          obtain ⟨k, hk, e⟩ := (ih _).mp h1
          exact ⟨k + 1, by omega, by simpa [Nat.add_assoc, Nat.add_comm 1 k] using e⟩
        | some bs => simp [h0, h1] at h
    · rintro ⟨k, hk, e⟩
      cases k with
      | zero => simp only [Nat.add_zero] at e; simp [e]
      | succ k =>
        have : Memory.readBytes m (a + 1) n = none :=
          (ih _).mpr ⟨k, by omega, by simpa [Nat.add_assoc, Nat.add_comm 1 k] using e⟩
        simp [this]

/-- A read of several bytes depends on those bytes alone. -/
theorem Memory.readBytes_congr {m m' : Memory} : ∀ (n a : Nat),
    (∀ k < n, Memory.read m (a + k) = Memory.read m' (a + k)) → Memory.readBytes m a n = Memory.readBytes m' a n := by
  intro n
  induction n with
  | zero => intro a _; rfl
  | succ n ih =>
    intro a h
    simp only [Memory.readBytes]
    rw [show Memory.read m a = Memory.read m' a by simpa using h 0 (by omega),
      ih (a + 1) fun k hk => by simpa [Nat.add_assoc, Nat.add_comm 1 k] using h (k + 1) (by omega)]

/-! ### Bytes and words -/

@[simp] theorem splitBytes_length (n : Nat) : ∀ v : Word, (splitBytes n v).length = n := by
  induction n with
  | zero => intro v; rfl
  | succ n ih => intro v; simp [splitBytes, ih]

/-- Byte `j` of a value is its bits [8j+7:8j] (R74). -/
theorem splitBytes_getElem? (n : Nat) : ∀ (v : Word) (j : Nat), j < n →
    (splitBytes n v)[j]? = some (bits v (8 * j) 8) := by
  induction n with
  | zero => intro v j h; omega
  | succ n ih =>
    intro v j h
    cases j with
    | zero => simp [splitBytes]
    | succ j =>
      simp only [splitBytes, List.getElem?_cons_succ]
      rw [ih _ _ (by omega)]
      congr 1
      apply BitVec.eq_of_getLsbD_eq
      intro i hi
      simp only [bits, BitVec.getLsbD_extractLsb', BitVec.getLsbD_ushiftRight, hi, decide_true, Bool.true_and]
      congr 1; omega

/-- A word is put together again from its four bytes (R74). -/
theorem joinBytes_splitBytes (v : Word) : joinBytes (splitBytes 4 v) = v := by
  apply BitVec.eq_of_getLsbD_eq
  intro i hi
  simp only [splitBytes, joinBytes, bits, BitVec.getLsbD_or, BitVec.getLsbD_setWidth, BitVec.getLsbD_extractLsb',
    BitVec.getLsbD_shiftLeft, BitVec.getLsbD_ushiftRight]
  interval_cases i <;> simp

/-! ### Words -/

theorem Memory.writeWords_wf {ws : List Word} : ∀ {m : Memory} {a : Nat}, Memory.wf m →
    Memory.wf (Memory.writeWords m a ws) := by
  induction ws with
  | nil => intro m a h; exact h
  | cons w ws ih => intro m a h; exact ih (Memory.writeBytes_wf h)

/-- A write of words leaves every byte outside them as it was. -/
theorem Memory.read_writeWords_outside {ws : List Word} : ∀ {m : Memory} {a c : Nat},
    c < a ∨ a + 4 * ws.length ≤ c → Memory.read (Memory.writeWords m a ws) c = Memory.read m c := by
  induction ws with
  | nil => intro m a c _; rfl
  | cons w ws ih =>
    intro m a c h
    simp only [List.length_cons] at h
    simp only [Memory.writeWords]
    rw [ih (by omega), Memory.read_writeBytes, if_neg (by simp; omega)]

theorem Memory.mem_writeWords {ws : List Word} : ∀ {m : Memory} {a : Nat} {x : Host.Cell},
    x ∈ Memory.writeWords m a ws → (a ≤ x.1 ∧ x.1 < a + 4 * ws.length) ∨ x ∈ m := by
  induction ws with
  | nil => intro m a x h; exact .inr h
  | cons w ws ih =>
    intro m a x h
    simp only [List.length_cons]
    rcases ih h with h | h
    · left; omega
    · rcases Memory.mem_writeBytes h with h | h
      · left; simp only [splitBytes_length] at h; omega
      · exact .inr h

/-- A write of bytes is read back as one word. -/
theorem Memory.readWord_writeBytes (m : Memory) (a : Nat) (v : Word) :
    Memory.readWord (Memory.writeBytes m a (splitBytes 4 v)) a = some v := by
  have h : Memory.readBytes (Memory.writeBytes m a (splitBytes 4 v)) a 4 = some (splitBytes 4 v) := by
    refine (Memory.readBytes_eq_some_iff _ _ _ _).mpr ⟨by simp, fun k hk => ?_⟩
    rw [Memory.read_writeBytes, if_pos (by simp; omega)]
    congr 1; omega
  simp [Memory.readWord, h, joinBytes_splitBytes]

/-- A word read depends on its four bytes alone. -/
theorem Memory.readWord_congr {m m' : Memory} {a : Nat} (h : ∀ k < 4, Memory.read m (a + k) = Memory.read m' (a + k)) :
    Memory.readWord m a = Memory.readWord m' a := by
  rw [Memory.readWord, Memory.readWord, Memory.readBytes_congr 4 a h]

/-- Word `k` of a write of words is read back. -/
theorem Memory.readWord_writeWords {ws : List Word} : ∀ {m : Memory} {a k : Nat}, k < ws.length →
    Memory.readWord (Memory.writeWords m a ws) (a + 4 * k) = ws[k]? := by
  induction ws with
  | nil => intro m a k h; simp at h
  | cons w ws ih =>
    intro m a k h
    simp only [Memory.writeWords]
    cases k with
    | zero =>
      rw [Memory.readWord_congr (m' := Memory.writeBytes m a (splitBytes 4 w)) fun j hj =>
        Memory.read_writeWords_outside (.inl (by omega))]
      simpa using Memory.readWord_writeBytes m a w
    | succ k =>
      have := ih (m := Memory.writeBytes m a (splitBytes 4 w)) (a := a + 4) (k := k) (by simpa using h)
      rw [show a + 4 * (k + 1) = a + 4 + 4 * k by omega, this, List.getElem?_cons_succ]

/-- A word outside a write of words is read as before. -/
theorem Memory.readWord_writeWords_outside {ws : List Word} {m : Memory} {a c : Nat}
    (h : c + 4 ≤ a ∨ a + 4 * ws.length ≤ c) :
    Memory.readWord (Memory.writeWords m a ws) c = Memory.readWord m c :=
  Memory.readWord_congr fun _ _ => Memory.read_writeWords_outside (by omega)

/-- Writes of words to places apart may be done in either order. -/
theorem Memory.writeWords_comm {m : Memory} (h : Memory.wf m) {ws vs : List Word} {a b : Nat}
    (apart : a + 4 * ws.length ≤ b ∨ b + 4 * vs.length ≤ a) :
    Memory.writeWords (Memory.writeWords m a ws) b vs = Memory.writeWords (Memory.writeWords m b vs) a ws := by
  have split_read : ∀ (us : List Word) (n n' : Memory) (d c : Nat), d ≤ c ∧ c < d + 4 * us.length →
      Memory.read (Memory.writeWords n d us) c = Memory.read (Memory.writeWords n' d us) c := by
    intro us
    induction us with
    | nil => intro n n' d c hc; simp at hc; omega
    | cons u us ih =>
      intro n n' d c hc
      simp only [List.length_cons] at hc
      simp only [Memory.writeWords]
      by_cases hd : d + 4 ≤ c
      · exact ih _ _ _ _ (by omega)
      · rw [Memory.read_writeWords_outside (.inl (by omega)), Memory.read_writeWords_outside (.inl (by omega)),
          Memory.read_writeBytes, Memory.read_writeBytes, if_pos (by simp; omega), if_pos (by simp; omega)]
  refine Memory.ext (Memory.writeWords_wf (Memory.writeWords_wf h)) (Memory.writeWords_wf (Memory.writeWords_wf h)) fun c => ?_
  by_cases ha : a ≤ c ∧ c < a + 4 * ws.length
  · rw [Memory.read_writeWords_outside (by omega), split_read ws m (Memory.writeWords m b vs) a c ha]
  · rw [Memory.read_writeWords_outside (ws := ws) (by omega)]
    by_cases hb : b ≤ c ∧ c < b + 4 * vs.length
    · exact split_read vs _ _ b c hb
    · rw [Memory.read_writeWords_outside (by omega), Memory.read_writeWords_outside (by omega),
        Memory.read_writeWords_outside (by omega)]

end Sys2Proof.Machine
end

