-- ==== Sys2Proof/Laws/Ops.lean ====
section
/-! SUPPORT. What each shared operation can do, said once: the guards, the loop over the channels, the half-buffer write, the
services. -/

namespace Sys2Proof.Machine

/-! ### The phases of a render -/

theorem RenderPhase.admits_idle {c : Chan} {t : TxUnit} : RenderPhase.admits .idle c t = true ↔ c.Free ∧ t.Quiet := by
  simp [RenderPhase.admits]

theorem RenderPhase.admits_loaded {c : Chan} {t : TxUnit} :
    RenderPhase.admits .loaded c t = true ↔ c.Waiting .none ∧ c.Fresh ∧ t.Quiet := by
  simp [RenderPhase.admits]

theorem RenderPhase.admits_primed {c : Chan} {t : TxUnit} :
    RenderPhase.admits .primed c t = true ↔ c.Waiting .none ∧ t.Quiet := by
  simp [RenderPhase.admits]

theorem RenderPhase.admits_armed {c : Chan} {t : TxUnit} :
    RenderPhase.admits .armed c t = true ↔ c.Waiting .clear ∧ t.Quiet := by
  simp [RenderPhase.admits]

theorem RenderPhase.admits_running {c : Chan} {t : TxUnit} : RenderPhase.admits .running c t = true ↔ c.Running t := by
  simp [RenderPhase.admits]

/-! ### Guards -/

theorem State.halted_eq_false {s : State} : s.halted = false ↔ s.fault = none := by
  simp [State.halted]

@[simp] theorem State.Ready.halted {s : State} (h : s.Ready) : s.halted = false := State.halted_eq_false.mpr h.1

theorem guardHalted_halted {s : State} (h : s.halted = true) (run : Answer) : guardHalted s run = .next s := by
  simp [guardHalted, h]

theorem guardHalted_running {s : State} (h : s.fault = none) (run : Answer) : guardHalted s run = run := by
  simp [guardHalted, State.halted, h]

theorem guardReady_ready {s : State} (h : s.Ready) (run : Answer) : guardReady s run = run := by
  simp [guardReady, guardHalted_running h.1, h.2]

/-- A guarded command that answers a next state was ignored, or ran. -/
theorem guardHalted_next {s t : State} {run : Answer} (h : guardHalted s run = .next t) :
    t = s ∨ (s.fault = none ∧ run = .next t) := by
  unfold guardHalted at h
  split at h
  · exact .inl (by cases h; rfl)
  · rename_i hh
    exact .inr ⟨by simpa [State.halted] using hh, h⟩

/-- A guarded command that answers a next state was ignored, faulted for want of INIT, or ran. -/
theorem guardReady_next {s t : State} {run : Answer} (h : guardReady s run = .next t) :
    t = s ∨ t = s.recordFault .notInitialized ∨ (s.Ready ∧ run = .next t) := by
  unfold guardReady at h
  rcases guardHalted_next h with h | ⟨hf, h⟩
  · exact .inl h
  · split at h
    · rename_i hi
      exact .inr (.inr ⟨⟨hf, hi⟩, h⟩)
    · exact .inr (.inl (by cases h; rfl))

/-! ### The loop over the channels -/

/-- What a loop over the configured channels keeps, if its body keeps it. -/
theorem State.forChannels_keeps {P : State → Prop} {s : State} {f : State → Fin 8 → State}
    (h : P s) (step : ∀ t i, P t → i.val < s.chanCount → P (f t i)) : P (s.forChannels f) := by
  have loop : ∀ (l : List (Fin 8)) (t : State), P t →
      P (l.foldl (fun t i => if i.val < s.chanCount then f t i else t) t) := by
    intro l
    induction l with
    | nil => intro t ht; exact ht
    | cons i l ih =>
      intro t ht
      simp only [List.foldl_cons]
      apply ih
      split
      · exact step _ _ ht (by assumption)
      · exact ht
  exact loop _ _ h

/-! ### The half-buffer write -/

/-- A half-buffer write fits its half. -/
theorem State.copyCount_le (s : State) (c : Chan) : 8 * s.copyCount c ≤ s.wp.toNat := by
  unfold State.copyCount State.halfBytes; omega

@[simp] theorem encodeByte_length (p : Params) (x : Byte) (last : Bool) : (encodeByte p x last).length = 8 := by
  simp [encodeByte, bitOrder]

@[simp] theorem encodeBytes_length (p : Params) (len : Nat) (xs : List Byte) :
    ∀ k, (encodeBytes p len k xs).length = 8 * xs.length := by
  induction xs with
  | nil => intro k; rfl
  | cons x xs ih => intro k; simp [encodeBytes, ih]; omega

/-- Pulse words of a buffer cut in two are those of its parts. -/
theorem encodeBytes_append (p : Params) (len : Nat) (xs ys : List Byte) :
    ∀ k, encodeBytes p len k (xs ++ ys) = encodeBytes p len k xs ++ encodeBytes p len (k + xs.length) ys := by
  induction xs with
  | nil => intro k; rfl
  | cons x xs ih =>
    intro k
    simp [encodeBytes, ih, Nat.add_assoc, Nat.add_comm 1 xs.length]

/-- The bytes a half-buffer write takes are there. -/
theorem State.copied_bytes_length (s : State) (c : Chan) :
    ((c.enc.drop c.pos.toNat).take (s.copyCount c)).length = s.copyCount c := by
  simp [State.copyCount, Chan.len]

theorem State.dataWords_length (s : State) (c : Chan) : (s.dataWords c).length = s.wp.toNat := by
  have := s.copyCount_le c
  simp only [State.dataWords, List.length_append, encodeBytes_length, State.copied_bytes_length, List.length_replicate]
  omega

/-- A half-buffer write writes a whole half or nothing. -/
theorem State.copyWords_length_le (s : State) (c : Chan) : (s.copyWords c).length ≤ s.wp.toNat := by
  unfold State.copyWords
  split
  · simp [State.dataWords_length]
  · split <;> simp

theorem State.chan_copy (s : State) (i j : Fin 8) :
    (s.copy i).chan j = if j = i then s.copiedChan (s.chan j) else s.chan j := by
  simp [State.copy]

@[simp] theorem State.copy_mem (s : State) (i : Fin 8) :
    (s.copy i).mem = Memory.writeWords s.mem (pramAddr (s.copyBase i)) (s.copyWords (s.chan i)) := rfl

@[simp] theorem State.copy_unit (s : State) (i u : Fin 8) : (s.copy i).unit u = s.unit u := rfl

@[simp] theorem State.copy_unitOf (s : State) (i j : Fin 8) : (s.copy i).unitOf j = s.unitOf j := rfl

/-- A half-buffer write changes the channel's send state and the pulse memory, and nothing else. -/
theorem State.copy_frame (s : State) (i : Fin 8) :
    s.copy i = { s with chans := (s.copy i).chans, mem := (s.copy i).mem } := rfl

/-! ### Service -/

theorem State.chan_serveThr (s : State) (u j : Fin 8) :
    (s.serveThr u).chan j = if j = s.chanOf u then s.copiedChan (s.chan j) else s.chan j := by
  simp [State.serveThr, State.chan_copy]

theorem State.unit_serveThr (s : State) (u v : Fin 8) :
    (s.serveThr u).unit v = if v = u then { s.unit v with thrRaw := false } else s.unit v := by
  simp [State.serveThr]

theorem State.chan_serveEnd (s : State) (u j : Fin 8) :
    (s.serveEnd u).chan j = if j = s.chanOf u then (s.chan j).complete else s.chan j := by
  simp [State.serveEnd]

theorem State.unit_serveEnd (s : State) (u v : Fin 8) :
    (s.serveEnd u).unit v = if v = u then { s.unit v with endRaw := false } else s.unit v := by
  simp [State.serveEnd]

/-- Serving an end event changes the channels and the units, and nothing else. -/
theorem State.serveEnd_frame (s : State) (u : Fin 8) :
    s.serveEnd u = { s with chans := (s.serveEnd u).chans, units := (s.serveEnd u).units } := rfl

/-- Serving a threshold event changes the channels, the units and the pulse memory, and nothing else. -/
theorem State.serveThr_frame (s : State) (u : Fin 8) :
    s.serveThr u =
      { s with chans := (s.serveThr u).chans, units := (s.serveThr u).units, mem := (s.serveThr u).mem } := rfl

/-! ### Pulse words -/

/-- The meaning of a pulse word, by its class (R106, R160 to R162). -/
theorem exec_decodePulse (w : Word) (s : State) :
    exec (decodePulse w) s =
      if bits w 0 15 = 0#15 then execPulseEnd s
      else if bits w 16 15 = 0#15 then execPulseHalf s
      else execPulseData (bit w 15) (bits w 0 15) (bit w 31) (bits w 16 15) s := by
  unfold decodePulse
  split
  · rfl
  · split <;> rfl

/-- The meaning of an event (R108, R215, R216). -/
theorem exec_decodeEvent_thr (u : Fin 8) (s : State) : exec (decodeEvent (packEvent false u)) s = execEventThr u s := by
  fin_cases u <;> rfl

theorem exec_decodeEvent_end (u : Fin 8) (s : State) : exec (decodeEvent (packEvent true u)) s = .next (s.serveEnd u) := by
  fin_cases u <;> rfl

/-- A refill would come too late just when an event was lost (log 12). -/
theorem State.refillLate_iff {s : State} {u : Fin 8} : s.refillLate u = true ↔ s.EventLost u := by
  simp [State.refillLate, State.underrun]

/-- A service that comes in time refills the half. -/
theorem execEventThr_inTime {u : Fin 8} {s : State} (h : s.refillLate u = false) :
    execEventThr u s = .next (s.serveThr u) := by
  simp [execEventThr, h]

/-- A service that comes after a second event was lost is an underrun (log 12). -/
theorem execEventThr_late {u : Fin 8} {s : State} (h : s.refillLate u = true) :
    execEventThr u s = .next { s with modelFault := some .underrun } := by
  simp [execEventThr, h, raiseModelFault]

/-- A step of the service agent passes, serves the unit's threshold event in time or too late, or serves its end event (R214). -/
theorem serviceStep_cases (u : Fin 8) (s : State) :
    (serviceStep u s = .next s ∧ (s.unit u).thrPending = false) ∨
    (serviceStep u s = .next (s.serveThr u) ∧ (s.unit u).thrPending = true ∧ s.refillLate u = false) ∨
    (serviceStep u s = .next { s with modelFault := some .underrun } ∧ (s.unit u).thrPending = true ∧
      s.refillLate u = true) ∨
    (serviceStep u s = .next (s.serveEnd u) ∧ (s.unit u).endPending = true ∧ (s.unit u).thrRaw = false) := by
  unfold serviceStep State.eligibleEvent
  by_cases h : (s.unit u).thrPending = true
  · cases hl : s.refillLate u with
    | false => exact .inr (.inl ⟨by simp [h, exec_decodeEvent_thr, execEventThr_inTime hl], h, rfl⟩)
    | true => exact .inr (.inr (.inl ⟨by simp [h, exec_decodeEvent_thr, execEventThr_late hl], h, rfl⟩))
  · by_cases h' : ((s.unit u).endPending && !(s.unit u).thrRaw) = true
    · refine .inr (.inr (.inr ⟨by simp only [h, h', if_true]; exact exec_decodeEvent_end u s, ?_⟩))
      simpa using h'
    · exact .inl ⟨by simp [h, h'], by simpa using h⟩

/-- A step of a unit passes, is a model fault, or executes an END or a DATA word (R158, R159). -/
theorem unitStep_cases (u : Fin 8) (s : State) :
    (unitStep u s = .next s ∧ (s.unit u).active = false) ∨
    ((s.unit u).active = true ∧
      ((∃ k, unitStep u s = .next { s with modelFault := some k }) ∨
       (∃ k, unitStep u s = .next { s with modelFault := some k, txUnit := u }) ∨
       unitStep u s = .next ({ s with txUnit := u }.updUnit u TxUnit.stop) ∨
       ∃ w, s.pram (s.fetchIndex u) = some w ∧ s.underrun u = false ∧
         unitStep u s = .next ({ s with txUnit := u }.updUnit u fun t =>
           t.sendData (s.regionWords u) { level := bit w 15, ticks := bits w 0 15 }
             { level := bit w 31, ticks := bits w 16 15 }))) := by
  unfold unitStep
  by_cases ha : (s.unit u).active = true
  · refine .inr ⟨ha, ?_⟩
    simp only [ha, if_true]
    by_cases hu : s.underrun u = true
    · exact .inl ⟨.underrun, by simp [hu, raiseModelFault]⟩
    · simp only [hu]
      cases hp : s.pram (s.fetchIndex u) with
      | none => exact .inl ⟨.uninitRead, by simp [raiseModelFault]⟩
      | some w =>
        simp only [exec_decodePulse]
        by_cases h0 : bits w 0 15 = 0#15
        · exact .inr (.inr (.inl (by simp [h0, execPulseEnd])))
        · by_cases h1 : bits w 16 15 = 0#15
          · exact .inr (.inl ⟨.unmodelledPulse, by simp [h0, h1, execPulseHalf, raiseModelFault]⟩)
          · exact .inr (.inr (.inr ⟨w, rfl, trivial, by
              simp [h0, h1, execPulseData, State.regionWords]⟩))
  · exact .inl ⟨by simp [ha], by simpa using ha⟩

end Sys2Proof.Machine
end

