-- ==== Sys2Proof/Laws/Effects.lean ====
section
/-! SUPPORT. What the effect of every operation does to every field: the changed fields by an equation, the others unchanged. -/

namespace Sys2Proof.Machine

/-! ### INIT -/

@[simp] theorem State.initialise_cfg (s : State) (nch : BitVec 4) : (s.initialise nch).cfg = s.cfg := rfl

@[simp] theorem State.initialise_fault (s : State) (nch : BitVec 4) : (s.initialise nch).fault = s.fault := rfl

@[simp] theorem State.initialise_modelFault (s : State) (nch : BitVec 4) : (s.initialise nch).modelFault = s.modelFault := rfl

@[simp] theorem State.initialise_phase (s : State) (nch : BitVec 4) : (s.initialise nch).phase = s.phase := rfl

@[simp] theorem State.initialise_gpio (s : State) (nch : BitVec 4) : (s.initialise nch).gpio = s.gpio := rfl

@[simp] theorem State.initialise_chans (s : State) (nch : BitVec 4) : (s.initialise nch).chans = s.chans := rfl

@[simp] theorem State.initialise_mem (s : State) (nch : BitVec 4) : (s.initialise nch).mem = s.mem := rfl

@[simp] theorem State.initialise_txUnit (s : State) (nch : BitVec 4) : (s.initialise nch).txUnit = s.txUnit := rfl

@[simp] theorem State.initialise_hold (s : State) (nch : BitVec 4) : (s.initialise nch).hold = s.hold := rfl

@[simp] theorem State.initialise_program (s : State) (nch : BitVec 4) : (s.initialise nch).program = s.program := rfl

@[simp] theorem State.initialise_reads (s : State) (nch : BitVec 4) : (s.initialise nch).reads = s.reads := rfl

@[simp] theorem State.initialise_schedule (s : State) (nch : BitVec 4) : (s.initialise nch).schedule = s.schedule := rfl

@[simp] theorem State.initialise_choices (s : State) (nch : BitVec 4) : (s.initialise nch).choices = s.choices := rfl

@[simp] theorem State.initialise_chan (s : State) (nch : BitVec 4) (k : Fin 8) : (s.initialise nch).chan k = s.chan k := rfl

@[simp] theorem State.unit_initialise (s : State) (nch : BitVec 4) (u : Fin 8) :
    (s.initialise nch).unit u =
      match mappedChan nch.toNat u with
      | some i => (s.unit u).configure s.cfg nch.toNat i s.gpio[i]
      | none => s.unit u := by
  simp only [State.initialise, State.unit_mk, State.units_getElem, State.unit_updUnits] <;> rfl

@[simp] theorem State.unitOf_initialise (s : State) (nch : BitVec 4) (i : Fin 8) :
    (s.initialise nch).unitOf i = if i.val < nch.toNat then mapUnit nch.toNat i else s.unitOf i := by
  simp [State.initialise]

/-- The channel counts INIT accepts are the legal ones (R11, R181). -/
theorem legalConfig_iff (nch ngpio : BitVec 4) : legalConfig nch ngpio = true ↔ LegalCount nch.toNat ∧ ngpio = nch := by
  have h : ∀ n : BitVec 4, (n != 0#4 && decide (totalBlocks % n.toNat = 0)) = true ↔ LegalCount n.toNat := by decide
  simp [legalConfig, ← h nch]

/-- A channel is found from the unit it is mapped to (R180: the mapping is one to one). -/
theorem mappedChan_mapUnit {n : Nat} (hn : LegalCount n) {i : Fin 8} (hi : i.val < n) :
    mappedChan n (mapUnit n i) = some i := by
  rcases hn with rfl | rfl | rfl | rfl <;> (revert hi; revert i; decide)

theorem mappedChan_eq_none {n : Nat} {u : Fin 8} :
    mappedChan n u = none ↔ ∀ i : Fin 8, i.val < n → mapUnit n i ≠ u := by
  unfold mappedChan
  rw [List.find?_eq_none]
  constructor
  · intro h i hi e
    exact absurd (h i (by fin_cases i <;> decide)) (by simp [hi, e])
  · intro h i _
    simpa using h i

/-- The mapping is one to one (R180). -/
theorem mapUnit_injective {n : Nat} (hn : LegalCount n) {i j : Fin 8} (hi : i.val < n) (hj : j.val < n)
    (h : mapUnit n i = mapUnit n j) : i = j := by
  have := mappedChan_mapUnit hn hi
  rw [h, mappedChan_mapUnit hn hj] at this
  exact (Option.some.inj this).symm

/-! ### LOAD -/

@[simp] theorem State.loadFrame_cfg (s : State) (n : Nat) (fr : List Byte) : (s.loadFrame n fr).cfg = s.cfg := rfl

@[simp] theorem State.loadFrame_fault (s : State) (n : Nat) (fr : List Byte) : (s.loadFrame n fr).fault = s.fault := rfl

@[simp] theorem State.loadFrame_modelFault (s : State) (n : Nat) (fr : List Byte) : (s.loadFrame n fr).modelFault = s.modelFault := rfl

@[simp] theorem State.loadFrame_initDone (s : State) (n : Nat) (fr : List Byte) : (s.loadFrame n fr).initDone = s.initDone := rfl

@[simp] theorem State.loadFrame_nch (s : State) (n : Nat) (fr : List Byte) : (s.loadFrame n fr).nch = s.nch := rfl

@[simp] theorem State.loadFrame_bpc (s : State) (n : Nat) (fr : List Byte) : (s.loadFrame n fr).bpc = s.bpc := rfl

@[simp] theorem State.loadFrame_wp (s : State) (n : Nat) (fr : List Byte) : (s.loadFrame n fr).wp = s.wp := rfl

@[simp] theorem State.loadFrame_map (s : State) (n : Nat) (fr : List Byte) : (s.loadFrame n fr).map = s.map := rfl

@[simp] theorem State.loadFrame_gpio (s : State) (n : Nat) (fr : List Byte) : (s.loadFrame n fr).gpio = s.gpio := rfl

@[simp] theorem State.loadFrame_units (s : State) (n : Nat) (fr : List Byte) : (s.loadFrame n fr).units = s.units := rfl

@[simp] theorem State.loadFrame_mem (s : State) (n : Nat) (fr : List Byte) : (s.loadFrame n fr).mem = s.mem := rfl

@[simp] theorem State.loadFrame_txUnit (s : State) (n : Nat) (fr : List Byte) : (s.loadFrame n fr).txUnit = s.txUnit := rfl

@[simp] theorem State.loadFrame_hold (s : State) (n : Nat) (fr : List Byte) : (s.loadFrame n fr).hold = s.hold := rfl

@[simp] theorem State.loadFrame_program (s : State) (n : Nat) (fr : List Byte) : (s.loadFrame n fr).program = s.program := rfl

@[simp] theorem State.loadFrame_reads (s : State) (n : Nat) (fr : List Byte) : (s.loadFrame n fr).reads = s.reads := rfl

@[simp] theorem State.loadFrame_schedule (s : State) (n : Nat) (fr : List Byte) : (s.loadFrame n fr).schedule = s.schedule := rfl

@[simp] theorem State.loadFrame_choices (s : State) (n : Nat) (fr : List Byte) : (s.loadFrame n fr).choices = s.choices := rfl

@[simp] theorem State.loadFrame_unit (s : State) (n : Nat) (fr : List Byte) (k : Fin 8) : (s.loadFrame n fr).unit k = s.unit k := rfl

@[simp] theorem State.loadFrame_unitOf (s : State) (n : Nat) (fr : List Byte) (k : Fin 8) : (s.loadFrame n fr).unitOf k = s.unitOf k := rfl

@[simp] theorem State.loadFrame_phase (s : State) (n : Nat) (fr : List Byte) : (s.loadFrame n fr).phase = .loaded := rfl

@[simp] theorem State.chan_loadFrame (s : State) (n : Nat) (fr : List Byte) (i : Fin 8) :
    (s.loadFrame n fr).chan i =
      if i.val < s.chanCount then (s.chan i).loadBuffer (chanBytes fr n s.chanCount i.val) else s.chan i := by
  simp only [State.loadFrame, State.chan_mk, State.chans_getElem, State.chan_updChans]

theorem chanBytes_length_le (fr : List Byte) (pixels n i : Nat) :
    (chanBytes fr pixels n i).length ≤ fr.length := by
  simp [chanBytes]

/-! ### PRIME -/

/-- PRIME changes send states, the pulse memory and the phase, and nothing else (R156). -/
theorem State.primeAll_frame (s : State) :
    s.primeAll = { s with chans := s.primeAll.chans, mem := s.primeAll.mem, phase := .primed } := by
  have h := State.forChannels_keeps (s := s) (f := fun t i => (t.copy i).copy i)
    (P := fun t => t = { s with chans := t.chans, mem := t.mem }) rfl fun t i ht _ => by
      rw [ht, State.copy_frame, State.copy_frame]
  unfold State.primeAll
  rw [h]

@[simp] theorem State.primeAll_cfg (s : State) : s.primeAll.cfg = s.cfg := by
  rw [State.primeAll_frame]

@[simp] theorem State.primeAll_fault (s : State) : s.primeAll.fault = s.fault := by
  rw [State.primeAll_frame]

@[simp] theorem State.primeAll_modelFault (s : State) : s.primeAll.modelFault = s.modelFault := by
  rw [State.primeAll_frame]

@[simp] theorem State.primeAll_initDone (s : State) : s.primeAll.initDone = s.initDone := by
  rw [State.primeAll_frame]

@[simp] theorem State.primeAll_nch (s : State) : s.primeAll.nch = s.nch := by
  rw [State.primeAll_frame]

@[simp] theorem State.primeAll_bpc (s : State) : s.primeAll.bpc = s.bpc := by
  rw [State.primeAll_frame]

@[simp] theorem State.primeAll_wp (s : State) : s.primeAll.wp = s.wp := by
  rw [State.primeAll_frame]

@[simp] theorem State.primeAll_map (s : State) : s.primeAll.map = s.map := by
  rw [State.primeAll_frame]

@[simp] theorem State.primeAll_gpio (s : State) : s.primeAll.gpio = s.gpio := by
  rw [State.primeAll_frame]

@[simp] theorem State.primeAll_units (s : State) : s.primeAll.units = s.units := by
  rw [State.primeAll_frame]

@[simp] theorem State.primeAll_txUnit (s : State) : s.primeAll.txUnit = s.txUnit := by
  rw [State.primeAll_frame]

@[simp] theorem State.primeAll_hold (s : State) : s.primeAll.hold = s.hold := by
  rw [State.primeAll_frame]

@[simp] theorem State.primeAll_program (s : State) : s.primeAll.program = s.program := by
  rw [State.primeAll_frame]

@[simp] theorem State.primeAll_reads (s : State) : s.primeAll.reads = s.reads := by
  rw [State.primeAll_frame]

@[simp] theorem State.primeAll_schedule (s : State) : s.primeAll.schedule = s.schedule := by
  rw [State.primeAll_frame]

@[simp] theorem State.primeAll_choices (s : State) : s.primeAll.choices = s.choices := by
  rw [State.primeAll_frame]

@[simp] theorem State.primeAll_unit (s : State) (k : Fin 8) : s.primeAll.unit k = s.unit k := by
  rw [State.primeAll_frame]; rfl

@[simp] theorem State.primeAll_unitOf (s : State) (k : Fin 8) : s.primeAll.unitOf k = s.unitOf k := by
  rw [State.primeAll_frame]; rfl

/-- What PRIME keeps: what a half-buffer write of a configured channel keeps, and the change of phase (R156). -/
theorem State.primeAll_keeps {P : State → Prop} {s : State} (h : P s)
    (copy : ∀ t i, P t → i.val < s.chanCount → P (t.copy i)) (phase : ∀ t, P t → P { t with phase := .primed }) :
    P s.primeAll := by
  unfold State.primeAll
  exact phase _ (State.forChannels_keeps h fun t i ht hi => copy _ _ (copy _ _ ht hi) hi)

@[simp] theorem State.primeAll_phase (s : State) : s.primeAll.phase = .primed := rfl

/-! ### ARM -/

@[simp] theorem State.armAll_cfg (s : State) : (s.armAll).cfg = s.cfg := rfl

@[simp] theorem State.armAll_fault (s : State) : (s.armAll).fault = s.fault := rfl

@[simp] theorem State.armAll_modelFault (s : State) : (s.armAll).modelFault = s.modelFault := rfl

@[simp] theorem State.armAll_initDone (s : State) : (s.armAll).initDone = s.initDone := rfl

@[simp] theorem State.armAll_nch (s : State) : (s.armAll).nch = s.nch := rfl

@[simp] theorem State.armAll_bpc (s : State) : (s.armAll).bpc = s.bpc := rfl

@[simp] theorem State.armAll_wp (s : State) : (s.armAll).wp = s.wp := rfl

@[simp] theorem State.armAll_map (s : State) : (s.armAll).map = s.map := rfl

@[simp] theorem State.armAll_gpio (s : State) : (s.armAll).gpio = s.gpio := rfl

@[simp] theorem State.armAll_units (s : State) : (s.armAll).units = s.units := rfl

@[simp] theorem State.armAll_mem (s : State) : (s.armAll).mem = s.mem := rfl

@[simp] theorem State.armAll_txUnit (s : State) : (s.armAll).txUnit = s.txUnit := rfl

@[simp] theorem State.armAll_hold (s : State) : (s.armAll).hold = s.hold := rfl

@[simp] theorem State.armAll_program (s : State) : (s.armAll).program = s.program := rfl

@[simp] theorem State.armAll_reads (s : State) : (s.armAll).reads = s.reads := rfl

@[simp] theorem State.armAll_schedule (s : State) : (s.armAll).schedule = s.schedule := rfl

@[simp] theorem State.armAll_choices (s : State) : (s.armAll).choices = s.choices := rfl

@[simp] theorem State.armAll_unit (s : State) (k : Fin 8) : (s.armAll).unit k = s.unit k := rfl

@[simp] theorem State.armAll_unitOf (s : State) (k : Fin 8) : (s.armAll).unitOf k = s.unitOf k := rfl

@[simp] theorem State.armAll_phase (s : State) : s.armAll.phase = .armed := rfl

@[simp] theorem State.chan_armAll (s : State) (i : Fin 8) :
    s.armAll.chan i = if i.val < s.chanCount then { s.chan i with sig := .clear } else s.chan i := by
  simp only [State.armAll, State.chan_mk, State.chans_getElem, State.chan_updChans]

/-! ### START -/

@[simp] theorem State.startAll_cfg (s : State) : (s.startAll).cfg = s.cfg := rfl

@[simp] theorem State.startAll_fault (s : State) : (s.startAll).fault = s.fault := rfl

@[simp] theorem State.startAll_modelFault (s : State) : (s.startAll).modelFault = s.modelFault := rfl

@[simp] theorem State.startAll_initDone (s : State) : (s.startAll).initDone = s.initDone := rfl

@[simp] theorem State.startAll_nch (s : State) : (s.startAll).nch = s.nch := rfl

@[simp] theorem State.startAll_bpc (s : State) : (s.startAll).bpc = s.bpc := rfl

@[simp] theorem State.startAll_wp (s : State) : (s.startAll).wp = s.wp := rfl

@[simp] theorem State.startAll_map (s : State) : (s.startAll).map = s.map := rfl

@[simp] theorem State.startAll_gpio (s : State) : (s.startAll).gpio = s.gpio := rfl

@[simp] theorem State.startAll_mem (s : State) : (s.startAll).mem = s.mem := rfl

@[simp] theorem State.startAll_txUnit (s : State) : (s.startAll).txUnit = s.txUnit := rfl

@[simp] theorem State.startAll_hold (s : State) : (s.startAll).hold = s.hold := rfl

@[simp] theorem State.startAll_program (s : State) : (s.startAll).program = s.program := rfl

@[simp] theorem State.startAll_reads (s : State) : (s.startAll).reads = s.reads := rfl

@[simp] theorem State.startAll_schedule (s : State) : (s.startAll).schedule = s.schedule := rfl

@[simp] theorem State.startAll_choices (s : State) : (s.startAll).choices = s.choices := rfl

@[simp] theorem State.startAll_unitOf (s : State) (k : Fin 8) : (s.startAll).unitOf k = s.unitOf k := rfl

@[simp] theorem State.startAll_phase (s : State) : s.startAll.phase = .running := rfl

@[simp] theorem State.chan_startAll (s : State) (i : Fin 8) :
    s.startAll.chan i = if i.val < s.chanCount then { s.chan i with inFlight := true } else s.chan i := by
  simp only [State.startAll, State.chan_mk, State.chans_getElem, State.chan_updChans, State.updUnits_chan]

@[simp] theorem State.unit_startAll (s : State) (u : Fin 8) :
    s.startAll.unit u = if s.serves u then (s.unit u).launch else s.unit u := by
  simp only [State.startAll, State.unit_mk, State.units_getElem, State.updChans_unit, State.unit_updUnits]

/-- The units a configuration uses. -/
theorem State.serves_iff (s : State) (u : Fin 8) :
    s.serves u = true ↔ ∃ i : Fin 8, i.val < s.chanCount ∧ s.unitOf i = u := by
  unfold State.serves
  rw [List.any_eq_true]
  constructor
  · rintro ⟨i, _, h⟩
    exact ⟨i, by simpa using h⟩
  · rintro ⟨i, h⟩
    exact ⟨i, by fin_cases i <;> decide, by simpa using h⟩

/-! ### WAIT -/

@[simp] theorem State.release_cfg (s : State) (ch : Fin 8) : (s.release ch).cfg = s.cfg := rfl

@[simp] theorem State.release_fault (s : State) (ch : Fin 8) : (s.release ch).fault = s.fault := rfl

@[simp] theorem State.release_modelFault (s : State) (ch : Fin 8) : (s.release ch).modelFault = s.modelFault := rfl

@[simp] theorem State.release_initDone (s : State) (ch : Fin 8) : (s.release ch).initDone = s.initDone := rfl

@[simp] theorem State.release_nch (s : State) (ch : Fin 8) : (s.release ch).nch = s.nch := rfl

@[simp] theorem State.release_bpc (s : State) (ch : Fin 8) : (s.release ch).bpc = s.bpc := rfl

@[simp] theorem State.release_wp (s : State) (ch : Fin 8) : (s.release ch).wp = s.wp := rfl

@[simp] theorem State.release_map (s : State) (ch : Fin 8) : (s.release ch).map = s.map := rfl

@[simp] theorem State.release_gpio (s : State) (ch : Fin 8) : (s.release ch).gpio = s.gpio := rfl

@[simp] theorem State.release_units (s : State) (ch : Fin 8) : (s.release ch).units = s.units := rfl

@[simp] theorem State.release_mem (s : State) (ch : Fin 8) : (s.release ch).mem = s.mem := rfl

@[simp] theorem State.release_txUnit (s : State) (ch : Fin 8) : (s.release ch).txUnit = s.txUnit := rfl

@[simp] theorem State.release_program (s : State) (ch : Fin 8) : (s.release ch).program = s.program := rfl

@[simp] theorem State.release_reads (s : State) (ch : Fin 8) : (s.release ch).reads = s.reads := rfl

@[simp] theorem State.release_schedule (s : State) (ch : Fin 8) : (s.release ch).schedule = s.schedule := rfl

@[simp] theorem State.release_choices (s : State) (ch : Fin 8) : (s.release ch).choices = s.choices := rfl

@[simp] theorem State.release_unit (s : State) (ch : Fin 8) (k : Fin 8) : (s.release ch).unit k = s.unit k := rfl

@[simp] theorem State.release_unitOf (s : State) (ch : Fin 8) (k : Fin 8) : (s.release ch).unitOf k = s.unitOf k := rfl

@[simp] theorem State.release_hold (s : State) (ch : Fin 8) : (s.release ch).hold = none := rfl

@[simp] theorem State.chan_release (s : State) (ch i : Fin 8) :
    (s.release ch).chan i = if i = ch then (s.chan i).release else s.chan i := by
  simp only [State.release, State.chan_mk, State.chans_getElem, State.chan_updChan]

/-- Every configured channel's buffer is freed. -/
theorem State.allReleased_iff (s : State) :
    s.allReleased = true ↔ ∀ i : Fin 8, i.val < s.chanCount → (s.chan i).bufValid = false := by
  unfold State.allReleased
  rw [List.all_eq_true]
  constructor
  · intro h i hi
    have := h i (by fin_cases i <;> decide)
    simpa [hi] using this
  · intro h i _
    by_cases hi : i.val < s.chanCount
    · simp [h i hi]
    · simp [hi]

theorem State.release_phase (s : State) (ch : Fin 8) :
    (s.release ch).phase = if (s.updChan ch Chan.release).allReleased then .idle else s.phase := rfl

/-- A WAIT past its checks releases the channel, or holds the host (R186). -/
theorem State.awaitSignal_cases (s : State) (ch : Fin 8) :
    (s.awaitSignal ch = s.release ch ∧ (s.chan ch).sig = .set) ∨
    (s.awaitSignal ch = { s with hold := some ch } ∧ (s.chan ch).sig ≠ .set) := by
  unfold State.awaitSignal
  split
  · exact .inl ⟨rfl, by assumption⟩
  · exact .inr ⟨rfl, by assumption⟩

/-! ### Service -/

@[simp] theorem State.serveThr_cfg (s : State) (u : Fin 8) : (s.serveThr u).cfg = s.cfg := rfl

@[simp] theorem State.serveThr_fault (s : State) (u : Fin 8) : (s.serveThr u).fault = s.fault := rfl

@[simp] theorem State.serveThr_modelFault (s : State) (u : Fin 8) : (s.serveThr u).modelFault = s.modelFault := rfl

@[simp] theorem State.serveThr_initDone (s : State) (u : Fin 8) : (s.serveThr u).initDone = s.initDone := rfl

@[simp] theorem State.serveThr_phase (s : State) (u : Fin 8) : (s.serveThr u).phase = s.phase := rfl

@[simp] theorem State.serveThr_nch (s : State) (u : Fin 8) : (s.serveThr u).nch = s.nch := rfl

@[simp] theorem State.serveThr_bpc (s : State) (u : Fin 8) : (s.serveThr u).bpc = s.bpc := rfl

@[simp] theorem State.serveThr_wp (s : State) (u : Fin 8) : (s.serveThr u).wp = s.wp := rfl

@[simp] theorem State.serveThr_map (s : State) (u : Fin 8) : (s.serveThr u).map = s.map := rfl

@[simp] theorem State.serveThr_gpio (s : State) (u : Fin 8) : (s.serveThr u).gpio = s.gpio := rfl

@[simp] theorem State.serveThr_txUnit (s : State) (u : Fin 8) : (s.serveThr u).txUnit = s.txUnit := rfl

@[simp] theorem State.serveThr_hold (s : State) (u : Fin 8) : (s.serveThr u).hold = s.hold := rfl

@[simp] theorem State.serveThr_program (s : State) (u : Fin 8) : (s.serveThr u).program = s.program := rfl

@[simp] theorem State.serveThr_reads (s : State) (u : Fin 8) : (s.serveThr u).reads = s.reads := rfl

@[simp] theorem State.serveThr_schedule (s : State) (u : Fin 8) : (s.serveThr u).schedule = s.schedule := rfl

@[simp] theorem State.serveThr_choices (s : State) (u : Fin 8) : (s.serveThr u).choices = s.choices := rfl

@[simp] theorem State.serveThr_unitOf (s : State) (u : Fin 8) (k : Fin 8) : (s.serveThr u).unitOf k = s.unitOf k := rfl

@[simp] theorem State.serveEnd_cfg (s : State) (u : Fin 8) : (s.serveEnd u).cfg = s.cfg := rfl

@[simp] theorem State.serveEnd_fault (s : State) (u : Fin 8) : (s.serveEnd u).fault = s.fault := rfl

@[simp] theorem State.serveEnd_modelFault (s : State) (u : Fin 8) : (s.serveEnd u).modelFault = s.modelFault := rfl

@[simp] theorem State.serveEnd_initDone (s : State) (u : Fin 8) : (s.serveEnd u).initDone = s.initDone := rfl

@[simp] theorem State.serveEnd_phase (s : State) (u : Fin 8) : (s.serveEnd u).phase = s.phase := rfl

@[simp] theorem State.serveEnd_nch (s : State) (u : Fin 8) : (s.serveEnd u).nch = s.nch := rfl

@[simp] theorem State.serveEnd_bpc (s : State) (u : Fin 8) : (s.serveEnd u).bpc = s.bpc := rfl

@[simp] theorem State.serveEnd_wp (s : State) (u : Fin 8) : (s.serveEnd u).wp = s.wp := rfl

@[simp] theorem State.serveEnd_map (s : State) (u : Fin 8) : (s.serveEnd u).map = s.map := rfl

@[simp] theorem State.serveEnd_gpio (s : State) (u : Fin 8) : (s.serveEnd u).gpio = s.gpio := rfl

@[simp] theorem State.serveEnd_mem (s : State) (u : Fin 8) : (s.serveEnd u).mem = s.mem := rfl

@[simp] theorem State.serveEnd_txUnit (s : State) (u : Fin 8) : (s.serveEnd u).txUnit = s.txUnit := rfl

@[simp] theorem State.serveEnd_hold (s : State) (u : Fin 8) : (s.serveEnd u).hold = s.hold := rfl

@[simp] theorem State.serveEnd_program (s : State) (u : Fin 8) : (s.serveEnd u).program = s.program := rfl

@[simp] theorem State.serveEnd_reads (s : State) (u : Fin 8) : (s.serveEnd u).reads = s.reads := rfl

@[simp] theorem State.serveEnd_schedule (s : State) (u : Fin 8) : (s.serveEnd u).schedule = s.schedule := rfl

@[simp] theorem State.serveEnd_choices (s : State) (u : Fin 8) : (s.serveEnd u).choices = s.choices := rfl

@[simp] theorem State.serveEnd_unitOf (s : State) (u : Fin 8) (k : Fin 8) : (s.serveEnd u).unitOf k = s.unitOf k := rfl

end Sys2Proof.Machine
end

