-- ==== Sys2Proof/Laws/Step.lean ====
section
/-! SUPPORT. What one step of each agent can do, said once: if it answers a next state, then one of a few cases holds. Every
invariant is proved from these lemmas. -/

namespace Sys2Proof.Machine

/-- What a host command can do to `s` when it does more than fault or be ignored: the effect of INIT, LOAD, PRIME, ARM, START or
WAIT, in the states where the command has it (R137, R156, R181, R184 to R186). -/
inductive CommandEffect (s : State) : State → Prop where
  | init (nch : BitVec 4) (before : s.initDone = false) (legal : legalConfig nch nch = true) :
      CommandEffect s (s.initialise nch)
  | load (pixels : Nat) (frame : List Byte) (ready : s.Ready) (phase : s.phase = .idle)
      (fits : pixels ≤ s.cfg.raw.maxPixels) (bytes : Memory.readBytes s.mem (frameAddr 0) (3 * pixels) = some frame) :
      CommandEffect s (s.loadFrame pixels frame)
  | prime (ready : s.Ready) (phase : s.phase = .loaded) : CommandEffect s s.primeAll
  | arm (ready : s.Ready) (phase : s.phase = .primed) : CommandEffect s s.armAll
  | start (ready : s.Ready) (phase : s.phase = .armed) : CommandEffect s s.startAll
  | wait (ch : Fin 8) (ready : s.Ready) (phase : s.phase = .running) (inRange : ch.val < s.chanCount)
      (valid : (s.chan ch).bufValid = true) : CommandEffect s (s.awaitSignal ch)

/-- What a bus access can do to `s` (R73, R110, R137, R188, R210). -/
inductive AccessEffect (s : State) : State → Prop where
  /-- ignored while HALTED, or a NOP -/
  | same : AccessEffect s s
  /-- an architectural fault -/
  | fault (code : FaultCode) : AccessEffect s (s.recordFault code)
  /-- a model fault: an uninitialised read, by LOAD or by the host -/
  | modelFault : AccessEffect s { s with modelFault := some .uninitRead }
  /-- a read that is a BAD_ACCESS -/
  | badRead : AccessEffect s ((s.returnRead 0#32).recordFault .badAccess)
  /-- a read -/
  | read (v : Word) : AccessEffect s (s.returnRead v)
  /-- a write of a GPIO identifier -/
  | gpio (i : Fin 8) (v : BitVec 8) (before : s.initDone = false) : AccessEffect s { s with gpio := s.gpio.set i v }
  /-- a write of frame bytes -/
  | frame (width : Width) (k : Nat) (value : Word) (fits : frameAddr k + width.bytes ≤ frameAddr s.cfg.frameBytes) :
      AccessEffect s { s with mem := Memory.writeBytes s.mem (frameAddr k) (splitBytes width.bytes value) }
  /-- a command -/
  | command {t : State} (effect : CommandEffect s t) : AccessEffect s t

theorem legalConfig_self {nch ngpio : BitVec 4} (h : legalConfig nch ngpio = true) : legalConfig nch nch = true := by
  simp_all [legalConfig]

/-- The effect of a decoded command. -/
theorem decodeCmd_effect {w : Word} {i : Instr} (hd : decodeCmd w = .ok i) {s t : State} (h : exec i s = .next t) :
    AccessEffect s t := by
  have cases_i : i = .nop ∨ (∃ a b, i = .init a b) ∨ (∃ p, i = .load p) ∨ i = .prime ∨ i = .arm ∨ i = .start ∨
      ∃ c, i = .wait c := by
    unfold decodeCmd unreserved at hd
    split at hd <;> (try split at hd) <;> cases hd <;> simp
  rcases cases_i with rfl | ⟨a, b, rfl⟩ | ⟨p, rfl⟩ | rfl | rfl | rfl | ⟨c, rfl⟩
  · rcases guardHalted_next h with rfl | ⟨_, h⟩
    · exact .same
    · cases h; exact .same
  · rcases guardHalted_next h with rfl | ⟨_, h⟩
    · exact .same
    · split at h
      · cases h; exact .fault _
      · rename_i hi
        split at h
        · cases h
          exact .command (.init a (by simpa using hi) (legalConfig_self (by assumption)))
        · cases h; exact .fault _
  · rcases guardReady_next h with rfl | rfl | ⟨hr, h⟩
    · exact .same
    · exact .fault _
    · split at h
      · cases h; exact .fault _
      · rename_i hp
        split at h
        · cases h; exact .fault _
        · rename_i hm
          split at h
          · cases h; exact .modelFault
          · cases h
            exact .command (.load _ _ hr (by simpa using hp) (by omega) (by assumption))
  · rcases guardReady_next h with rfl | rfl | ⟨hr, h⟩
    · exact .same
    · exact .fault _
    · split at h
      · cases h; exact .fault _
      · cases h; exact .command (.prime hr (by simp_all))
  · rcases guardReady_next h with rfl | rfl | ⟨hr, h⟩
    · exact .same
    · exact .fault _
    · split at h
      · cases h; exact .fault _
      · cases h; exact .command (.arm hr (by simp_all))
  · rcases guardReady_next h with rfl | rfl | ⟨hr, h⟩
    · exact .same
    · exact .fault _
    · split at h
      · cases h; exact .fault _
      · cases h; exact .command (.start hr (by simp_all))
  · rcases guardReady_next h with rfl | rfl | ⟨hr, h⟩
    · exact .same
    · exact .fault _
    · split at h
      · cases h; exact .fault _
      · split at h
        · cases h; exact .fault _
        · split at h
          · cases h
            exact .command (.wait c hr (by simp_all) (by omega) (by assumption))
          · cases h; exact .fault _

/-- The target of a frame access fits the frame memory (R71). -/
theorem busTarget_frame {p : Params} {width : Width} {addr : BitVec 18} {k : Nat}
    (h : busTarget p width addr = some (.frame k)) : frameAddr k + width.bytes ≤ frameAddr p.frameBytes := by
  unfold busTarget at h
  simp only at h
  split at h
  · cases h
  · split at h
    · split at h
      · cases hr : regAt addr.toNat <;> simp [hr] at h
      · cases h
    · split at h
      · split at h <;> simp at h
      · split at h
        · cases h
        · split at h
          · simp only [Option.some.injEq, Target.frame.injEq] at h
            subst h
            unfold frameAddr at *
            omega
          · cases h

/-- What a bus access can do. -/
theorem busAccess_effect {a : Access} {s t : State} (h : busAccess a s = .next t) : AccessEffect s t := by
  cases a with
  | read width addr =>
    simp only [busAccess, busRead] at h
    split at h
    · cases h; exact .badRead
    · cases h; exact .read _
    · unfold returnValue at h
      split at h
      · cases h; exact .modelFault
      · cases h; exact .read _
    · unfold returnValue at h
      split at h
      · cases h; exact .modelFault
      · cases h; exact .read _
  | write width addr value =>
    simp only [busAccess, busWrite] at h
    split at h
    · cases h; exact .fault _
    · unfold writeReg at h
      split at h
      · unfold writeCommand at h
        split at h
        · exact decodeCmd_effect (by simpa [decode] using ‹_›) h
        · rcases guardHalted_next h with rfl | ⟨_, h⟩
          · exact .same
          · cases h; exact .fault _
      · unfold writeGpio at h
        rcases guardHalted_next h with rfl | ⟨_, h⟩
        · exact .same
        · split at h
          · cases h; exact .fault _
          · cases h; exact .gpio _ _ (by simp_all)
      · cases h; exact .fault _
    · cases h; exact .fault _
    · cases h; exact .frame _ _ _ (busTarget_frame (by assumption))

/-- What a step of the host can do: pass, return from its WAIT, or issue its next access (R73, R186). -/
theorem hostStep_cases {s t : State} (h : hostStep s = .next t) :
    t = s ∨ (∃ ch, s.hold = some ch ∧ (s.chan ch).sig = .set ∧ t = s.release ch) ∨
    (s.hold = none ∧ ∃ a rest, s.program = a :: rest ∧ AccessEffect { s with program := rest } t) := by
  unfold hostStep at h
  split at h
  · split at h
    · cases h; exact .inr (.inl ⟨_, by assumption, by assumption, rfl⟩)
    · cases h; exact .inl rfl
  · split at h
    · cases h; exact .inl rfl
    · exact .inr (.inr ⟨by assumption, _, _, by assumption, busAccess_effect h⟩)

/-- What a step of the machine can do: the reset input, or a step of the host, of a unit or of the service agent, in a state in
which no model fault is marked (R7, R212, R240). -/
theorem step_cases {s t : State} (h : step s = .next t) :
    (∃ program, s.nextTurn = .reset program ∧ t = s.takeTurn.restart program) ∨
    (s.modelFault = none ∧
      ((s.nextTurn = .host ∧ hostStep s.takeTurn = .next t) ∨
       (∃ u, s.nextTurn = .unit u ∧ unitStep u s.takeTurn = .next t) ∨
       (∃ u, s.nextTurn = .service u ∧ serviceStep u s.takeTurn = .next t))) := by
  have guard : ∀ {run : Answer}, guardModelFault s.takeTurn run = .next t → s.modelFault = none ∧ run = .next t := by
    intro run hg
    unfold guardModelFault at hg
    split at hg
    · exact ⟨by simpa using ‹s.takeTurn.modelFault = none›, hg⟩
    · cases hg
  unfold step turnStep at h
  split at h
  · exact .inr ⟨(guard h).1, .inl ⟨by assumption, (guard h).2⟩⟩
  · exact .inr ⟨(guard h).1, .inr (.inl ⟨_, by assumption, (guard h).2⟩)⟩
  · exact .inr ⟨(guard h).1, .inr (.inr ⟨_, by assumption, (guard h).2⟩)⟩
  · cases h; exact .inl ⟨_, by assumption, rfl⟩

end Sys2Proof.Machine
end

