-- ==== Sys2Proof/Laws/Config.lean ====
section
/-! SUPPORT. What the configuration INIT leaves says of sizes, regions and channels (spec/00_scope.md R10, spec/20_memory.md R76,
spec/42_control.md R180, R181). -/

namespace Sys2Proof.Machine

/-- A legal INIT of an unconfigured engine configures it (R181). -/
theorem State.initialise_configured {s : State} (hs : s.Unconfigured) {nch : BitVec 4} (hl : legalConfig nch nch = true) :
    (s.initialise nch).Configured := by
  have hc := ((legalConfig_iff _ _).mp hl).1
  obtain ⟨-, -, -, h4, h5⟩ := hs
  have hv := s.cfg.valid.2.1
  have hn : (s.initialise nch).chanCount = nch.toNat := rfl
  have hw : (s.initialise nch).wp = BitVec.ofNat 12 (writePulses s.cfg nch.toNat) := rfl
  unfold State.Configured
  rw [hn]
  refine ⟨hc, ?_, ?_, ?_, ?_, ?_⟩
  · rcases hc with h | h | h | h <;> simp [State.initialise, blocksPerChan, totalBlocks, h]
  · rw [hw]
    have : s.cfg.raw.ppb * (8 / nch.toNat) / 2 < 4096 := by
      rcases hc with h | h | h | h <;> rw [h] <;> omega
    simp only [writePulses, blocksPerChan, totalBlocks, State.initialise_cfg]
    simp; omega
  · intro i; simp [h4]
  · intro i hi
    unfold State.UnitConfigured
    rw [hn, hw]
    simp only [State.unit_initialise, mappedChan_mapUnit hc hi, TxUnit.configure, State.initialise_cfg, State.initialise_gpio,
      and_true, true_and]
    rcases hc with h | h | h | h <;> simp [blocksPerChan, totalBlocks, h]
  · intro u hu
    simp [mappedChan_eq_none.mpr hu, h5]

/-- A half is not empty. -/
theorem State.Configured.wp_pos {s : State} (h : s.Configured) : 0 < s.wp.toNat := by
  rw [h.2.2.1]
  have := s.cfg.valid.1
  rcases h.1 with e | e | e | e <;> rw [e] <;> omega

theorem State.Configured.wp_le {s : State} (h : s.Configured) : s.wp.toNat ≤ 512 := by
  rw [h.2.2.1]
  have := s.cfg.valid.2.1
  rcases h.1 with e | e | e | e <;> rw [e] <;> omega

/-- A half holds a whole number of bytes, BPH (R10). -/
theorem State.Configured.wp_eq {s : State} (h : s.Configured) : s.wp.toNat = 8 * s.halfBytes := by
  unfold State.halfBytes
  rw [h.2.2.1]
  have := s.cfg.valid.2.2.1
  obtain ⟨k, hk⟩ : ∃ k, s.cfg.raw.ppb = 16 * k := ⟨s.cfg.raw.ppb / 16, by omega⟩
  rw [hk]
  rcases h.1 with e | e | e | e <;> rw [e] <;> omega

/-- The unit of a configured channel (R180). -/
theorem State.Configured.unitOf_eq {s : State} (h : s.Configured) {i : Fin 8} (hi : i.val < s.chanCount) :
    s.unitOf i = mapUnit s.chanCount i := by
  rw [h.2.2.2.1 i, if_pos hi]

/-- No two configured channels share a unit (R180). -/
theorem State.Configured.unitOf_injective {s : State} (h : s.Configured) {i j : Fin 8} (hi : i.val < s.chanCount)
    (hj : j.val < s.chanCount) (e : s.unitOf i = s.unitOf j) : i = j := by
  rw [h.unitOf_eq hi, h.unitOf_eq hj] at e
  exact mapUnit_injective h.1 hi hj e

/-- The unit of a configured channel serves that channel (R56, R181). -/
theorem State.Configured.chanOf_unitOf {s : State} (h : s.Configured) {i : Fin 8} (hi : i.val < s.chanCount) :
    s.chanOf (s.unitOf i) = i := by
  rw [h.unitOf_eq hi]
  exact (h.2.2.2.2.1 i hi).2.2.2.2.2.2.1

/-- A region is two halves (R10, R76). -/
theorem State.Configured.regionWords_eq {s : State} (h : s.Configured) {i : Fin 8} (hi : i.val < s.chanCount) :
    s.regionWords (s.unitOf i) = 2 * s.wp.toNat := by
  rw [h.unitOf_eq hi, h.2.2.1, State.regionWords, (h.2.2.2.2.1 i hi).2.1]
  have := s.cfg.valid.2.2.1
  rcases h.1 with e | e | e | e <;> rw [e] <;> omega

/-- The region of channel `i` is the `i`-th of the regions, in order (R76, R77). -/
theorem State.Configured.base_eq {s : State} (h : s.Configured) {i : Fin 8} (hi : i.val < s.chanCount) :
    s.base (s.unitOf i) = 2 * s.wp.toNat * i.val := by
  rw [h.2.2.1, h.unitOf_eq hi, State.base]
  have h16 := s.cfg.valid.2.2.1
  obtain ⟨k, hk⟩ : ∃ k, s.cfg.raw.ppb = 16 * k := ⟨s.cfg.raw.ppb / 16, by omega⟩
  rw [hk]
  have key : ∀ n : Nat, LegalCount n → i.val < n →
      (mapUnit n i).val = i.val * (8 / n) ∧ 16 * k * (8 / n) / 2 = 8 * k * (8 / n) := by
    intro n hn hi
    constructor
    · rcases hn with rfl | rfl | rfl | rfl <;> (clear * - hi; revert i; decide)
    · rcases hn with rfl | rfl | rfl | rfl <;> omega
  obtain ⟨k1, k2⟩ := key _ h.1 hi
  rw [k1, k2]
  ring

/-- A region lies in the pulse memory (R77). -/
theorem State.Configured.region_end {s : State} (h : s.Configured) {i : Fin 8} (hi : i.val < s.chanCount) :
    s.base (s.unitOf i) + 2 * s.wp.toNat ≤ s.cfg.pramWords := by
  rw [h.2.2.1, h.unitOf_eq hi, State.base, Params.pramWords, totalBlocks]
  have h16 := s.cfg.valid.2.2.1
  have key : ∀ n : Nat, LegalCount n → i.val < n →
      (mapUnit n i).val + 8 / n ≤ 8 ∧ s.cfg.raw.ppb * (8 / n) / 2 * 2 = s.cfg.raw.ppb * (8 / n) := by
    intro n hn hi
    constructor
    · rcases hn with rfl | rfl | rfl | rfl <;> (clear * - hi; revert i; decide)
    · rcases hn with rfl | rfl | rfl | rfl <;> omega
  obtain ⟨k1, k2⟩ := key _ h.1 hi
  have := Nat.mul_le_mul_left s.cfg.raw.ppb k1
  rw [Nat.mul_add] at this
  omega

/-- A unit that is active or has an event enabled serves a configured channel of an initialised engine. -/
theorem State.ConfigInv.chanOf {s : State} (hs : s.ConfigInv) {u : Fin 8}
    (h : (s.unit u).active = true ∨ (s.unit u).thrEna = true ∨ (s.unit u).endEna = true) :
    s.initDone = true ∧ (s.chanOf u).val < s.chanCount ∧ s.unitOf (s.chanOf u) = u := by
  cases hi : s.initDone with
  | false =>
    rw [(hs.2 hi).2.2.2.2 u] at h
    simp [TxUnit.reset] at h
  | true =>
    have hc := hs.1 hi
    by_cases hu : ∃ i : Fin 8, i.val < s.chanCount ∧ mapUnit s.chanCount i = u
    · obtain ⟨i, hlt, rfl⟩ := hu
      rw [← hc.unitOf_eq hlt, hc.chanOf_unitOf hlt]
      exact ⟨rfl, hlt, rfl⟩
    · rw [hc.2.2.2.2.2 u (fun i hlt e => hu ⟨i, hlt, e⟩)] at h
      simp [TxUnit.reset] at h

end Sys2Proof.Machine
end

