-- ==== Sys2Proof/Laws/Encoding.lean ====
section
/-! SUPPORT. The bits of a packed pulse word (spec/30_encoding.md R105). -/

namespace Sys2Proof

/-- Every bit of a packed pulse word (R105). -/
theorem getLsbD_packPulse (lvl0 : Bool) (dur0 : BitVec 15) (lvl1 : Bool) (dur1 : BitVec 15) (k : Nat) :
    (packPulse lvl0 dur0 lvl1 dur1).getLsbD k =
      if k < 15 then dur0.getLsbD k else if k = 15 then lvl0 else if k < 31 then dur1.getLsbD (k - 16)
      else decide (k = 31) && lvl1 := by
  unfold packPulse
  erw [BitVec.getLsbD_append, BitVec.getLsbD_append, BitVec.getLsbD_append]
  have h16 : k - 15 - 1 = k - 16 := by omega
  by_cases h1 : k < 15
  · simp [h1]
  · by_cases h2 : k = 15
    · simp [h2]
    · by_cases h3 : k < 31
      · rw [h16]
        simp only [h1, h2, h3, show ¬ k - 15 < 1 by omega, show k - 16 < 15 by omega, if_true, if_false]
      · by_cases h4 : k = 31
        · simp [h4]
        · simp [h1, h2, h3, h4, show ¬ k - 15 < 1 by omega, show ¬ k - 15 - 1 < 15 by omega, show k - 15 - 1 - 15 ≠ 0 by omega]

/-- DUR0 of a packed pulse word. -/
@[simp] theorem bits_packPulse_dur0 (lvl0 : Bool) (dur0 : BitVec 15) (lvl1 : Bool) (dur1 : BitVec 15) :
    bits (packPulse lvl0 dur0 lvl1 dur1) 0 15 = dur0 := by
  apply BitVec.eq_of_getLsbD_eq
  intro k hk
  simp [bits, getLsbD_packPulse, hk]

/-- DUR1 of a packed pulse word. -/
@[simp] theorem bits_packPulse_dur1 (lvl0 : Bool) (dur0 : BitVec 15) (lvl1 : Bool) (dur1 : BitVec 15) :
    bits (packPulse lvl0 dur0 lvl1 dur1) 16 15 = dur1 := by
  apply BitVec.eq_of_getLsbD_eq
  intro k hk
  simp [bits, getLsbD_packPulse, hk, show ¬ 16 + k < 15 by omega, show ¬ 16 + k = 15 by omega, show 16 + k < 31 by omega]

/-- LVL0 of a packed pulse word. -/
@[simp] theorem bit_packPulse_lvl0 (lvl0 : Bool) (dur0 : BitVec 15) (lvl1 : Bool) (dur1 : BitVec 15) :
    bit (packPulse lvl0 dur0 lvl1 dur1) 15 = lvl0 := by
  rw [bit, getLsbD_packPulse]; rfl

/-- LVL1 of a packed pulse word. -/
@[simp] theorem bit_packPulse_lvl1 (lvl0 : Bool) (dur0 : BitVec 15) (lvl1 : Bool) (dur1 : BitVec 15) :
    bit (packPulse lvl0 dur0 lvl1 dur1) 31 = lvl1 := by
  rw [bit, getLsbD_packPulse]; rfl

end Sys2Proof
end

