-- ==== Sys2Proof/Laws/PerInstr.lean ====
section
/-! SUPPORT. One statement for every operation: its word has the fixed bits of its row of spec/opcode_table.json, and meets the
row's condition. -/

namespace Sys2Proof.Laws.TableRow

/-- A word as the number of the table. -/
def number : RawWord → Word
  | .cmd w => w
  | .pulse w => w
  | .event e => e.setWidth 32

/-- The `mask` of the operation's row; PULSE.DATA has no fixed bits. -/
def mask : Instr → Word
  | .nop => 0xFFFFFFFF#32
  | .init _ _ => 0xFFFFFF00#32
  | .load _ => 0xFFFF0000#32
  | .prime => 0xFFFFFFFF#32
  | .arm => 0xFFFFFFFF#32
  | .start => 0xFFFFFFFF#32
  | .wait _ => 0xFFFFFFF8#32
  | .pulseData _ _ _ _ => 0x00000000#32
  | .pulseEnd _ => 0x00007FFF#32
  | .pulseHalf _ _ _ => 0x7FFF0000#32
  | .eventThr _ => 0x8#32
  | .eventEnd _ => 0x8#32

/-- The `match` of the operation's row. -/
def pattern : Instr → Word
  | .nop => 0x00000000#32
  | .init _ _ => 0x10000000#32
  | .load _ => 0x20000000#32
  | .prime => 0x30000000#32
  | .arm => 0x40000000#32
  | .start => 0x50000000#32
  | .wait _ => 0x60000000#32
  | .pulseData _ _ _ _ => 0x00000000#32
  | .pulseEnd _ => 0x00000000#32
  | .pulseHalf _ _ _ => 0x00000000#32
  | .eventThr _ => 0x0#32
  | .eventEnd _ => 0x8#32

/-- The `condition` of the operation's row, on its durations. -/
def Condition (i : Instr) (w : Word) : Prop :=
  match i with
  | .pulseData _ _ _ _ => bits w 0 15 ≠ 0#15 ∧ bits w 16 15 ≠ 0#15
  | .pulseHalf _ _ _ => bits w 0 15 ≠ 0#15
  | _ => True

/-- The word of a well-formed operation is one of its row's. -/
def Statement (i : Instr) : Prop :=
  i.WellFormed → number (encode i) &&& mask i = pattern i ∧ Condition i (number (encode i))

theorem nop : Statement .nop := fun _ => ⟨by decide, trivial⟩

theorem init (nch ngpio : BitVec 4) : Statement (.init nch ngpio) := fun _ => by
  refine ⟨?_, trivial⟩
  apply BitVec.eq_of_getLsbD_eq
  intro k hk
  simp only [number, encode, mask, pattern, BitVec.getLsbD_and]
  erw [BitVec.getLsbD_append, BitVec.getLsbD_append, BitVec.getLsbD_append]
  interval_cases k <;> simp

theorem load (p : BitVec 16) : Statement (.load p) := fun _ => by
  refine ⟨?_, trivial⟩
  apply BitVec.eq_of_getLsbD_eq
  intro k hk
  simp only [number, encode, mask, pattern, BitVec.getLsbD_and]
  erw [BitVec.getLsbD_append, BitVec.getLsbD_append]
  interval_cases k <;> simp

theorem prime : Statement .prime := fun _ => ⟨by decide, trivial⟩

theorem arm : Statement .arm := fun _ => ⟨by decide, trivial⟩

theorem start : Statement .start := fun _ => ⟨by decide, trivial⟩

theorem wait (ch : Fin 8) : Statement (.wait ch) := fun _ => ⟨by revert ch; decide, trivial⟩

theorem pulseData (lvl0 : Bool) (dur0 : BitVec 15) (lvl1 : Bool) (dur1 : BitVec 15) :
    Statement (.pulseData lvl0 dur0 lvl1 dur1) := fun h => by
  refine ⟨by simp [mask, pattern], ?_⟩
  simpa [Condition, number, encode, Instr.WellFormed, Instr.wellFormed] using h

theorem pulseEnd (ignored : BitVec 17) : Statement (.pulseEnd ignored) := fun _ => by
  refine ⟨?_, trivial⟩
  apply BitVec.eq_of_getLsbD_eq
  intro k hk
  simp only [number, encode, mask, pattern, BitVec.getLsbD_and]
  erw [BitVec.getLsbD_append]
  interval_cases k <;> simp

theorem pulseHalf (lvl0 : Bool) (dur0 : BitVec 15) (lvl1 : Bool) : Statement (.pulseHalf lvl0 dur0 lvl1) := fun h => by
  refine ⟨?_, ?_⟩
  · apply BitVec.eq_of_getLsbD_eq
    intro k hk
    simp only [number, encode, mask, pattern, BitVec.getLsbD_and, getLsbD_packPulse]
    interval_cases k <;> simp
  · simpa [Condition, number, encode, Instr.WellFormed, Instr.wellFormed] using h

theorem eventThr (u : Fin 8) : Statement (.eventThr u) := fun _ => ⟨by revert u; decide, trivial⟩

theorem eventEnd (u : Fin 8) : Statement (.eventEnd u) := fun _ => ⟨by revert u; decide, trivial⟩

end Sys2Proof.Laws.TableRow
end

