-- ==== Sys2Proof/Tests/Slice0.lean ====
section
/-! SUPPORT. Tests of the model against words, vectors and tables of the spec (the expected values are the spec's, cited at each
test), and for every statement with hypotheses a witness that meets them. -/

namespace Sys2Proof.Tests

open Sys2Proof.Machine

/-! ### Well-formedness (R106) -/

theorem test_wf_rejects_data_without_first_duration : ¬ (Instr.pulseData true 0#15 false 30#15).WellFormed := by decide

theorem test_wf_rejects_data_without_second_duration : ¬ (Instr.pulseData true 10#15 false 0#15).WellFormed := by decide

theorem test_wf_rejects_half_without_duration : ¬ (Instr.pulseHalf true 0#15 false).WellFormed := by decide

theorem test_wf_admits : (Instr.pulseData true 1#15 false 32767#15).WellFormed ∧ (Instr.pulseHalf false 1#15 true).WellFormed ∧
    (Instr.pulseEnd 0x1FFFF#17).WellFormed ∧ (Instr.init 15#4 15#4).WellFormed := by decide

/-! ### Decoding: words written out from the opcode map (R101 to R110) -/

theorem test_decode_nop : decodeCmd 0b0000_0000000000000000000000000000#32 = .ok .nop := by decide

theorem test_decode_init : decodeCmd 0b0001_00000000000000000000_0100_0010#32 = .ok (.init 0b0010#4 0b0100#4) := by decide

theorem test_decode_load : decodeCmd 0b0010_000000000000_1000000000000001#32 = .ok (.load 0x8001#16) := by decide

theorem test_decode_prime : decodeCmd 0b0011_0000000000000000000000000000#32 = .ok .prime := by decide

theorem test_decode_arm : decodeCmd 0b0100_0000000000000000000000000000#32 = .ok .arm := by decide

theorem test_decode_start : decodeCmd 0b0101_0000000000000000000000000000#32 = .ok .start := by decide

theorem test_decode_wait : decodeCmd 0b0110_0000000000000000000000000_110#32 = .ok (.wait 6) := by decide

theorem test_decode_data : decodePulse 0b0_000000000011110_1_000000000001010#32 = .pulseData true 10#15 false 30#15 := by decide

theorem test_decode_end : decodePulse 0b1_100000000000000_1_000000000000000#32 = .pulseEnd 0b11000000000000001#17 := by decide

theorem test_decode_half : decodePulse 0b1_000000000000000_0_000000000001010#32 = .pulseHalf false 10#15 true := by decide

theorem test_decode_thr : decodeEvent 0b0_101#4 = .eventThr 5 := by decide

theorem test_decode_endEvent : decodeEvent 0b1_011#4 = .eventEnd 3 := by decide

/-- V-FLT-2 to V-FLT-8. -/
theorem test_decode_refuses :
    [0x70000000#32, 0xF0000000#32, 0x00000001#32, 0x30000001#32, 0x60000008#32, 0x10000100#32, 0x20010000#32].map decodeCmd =
      List.replicate 7 (.error .illegalCommand) := by decide

/-! ### The encoder and the partition -/

/-- P0, P1, L0 and L1 of spec/95_test_vectors.md part 0. -/
theorem test_pulse_words :
    [pulse Params.sample false, pulse Params.sample true, pulseLast Params.sample false, pulseLast Params.sample true] =
      [0x001E800A#32, 0x000F8019#32, 0x07D0800A#32, 0x07D08019#32] := by decide

/-- V-ENC-7, and V-ENC-5 for a last byte. -/
theorem test_encodeByte :
    encodeByte Params.sample 0x12#8 false =
      [0x001E800A#32, 0x001E800A#32, 0x001E800A#32, 0x000F8019#32, 0x001E800A#32, 0x001E800A#32, 0x000F8019#32, 0x001E800A#32] ∧
    encodeByte Params.sample 0x01#8 true = List.replicate 7 0x001E800A#32 ++ [0x07D08019#32] := by decide

/-- V-PART-1 and V-PART-7. -/
theorem test_partition :
    [0, 1, 2, 3, 4].map (partLo 10 4) = [0, 2, 5, 7, 10] ∧
    [0, 1, 2, 3, 4, 5, 6, 7, 8].map (partLo 5 8) = [0, 0, 1, 1, 2, 3, 3, 4, 5] := by decide

/-! ### Machines for the tests -/

/-- The example configuration with the smallest pulse memory. -/
def small : Params where
  raw := { RawParams.sample with ppb := 16 }
  valid := by decide

/-- The next state an answer holds. -/
def nextOf : Answer → Option State
  | .next t => some t
  | _ => none

/-- Registers of the state an operation leaves. -/
def regsAfter (i : Instr) (s : State) (rs : List Reg) : Option (List Word) :=
  (nextOf (exec i s)).map fun t => rs.map t.readReg

/-- The example machine with two GPIO identifiers written (V-CTL-2). -/
def bound : State := { State.resetWith Params.sample with gpio := (Vector.replicate 8 0#8).set 0 4#8 |>.set 1 5#8 }

/-- The example machine initialised with `n` channels. -/
def ready (n : BitVec 4) : State := (State.resetWith Params.sample).initialise n

/-- The same of the small machine. -/
def readySmall (n : BitVec 4) : State := (State.resetWith small).initialise n

/-- A machine with `bytes` at the start of its frame memory. -/
def staged (s : State) (bytes : List Byte) : State := { s with mem := Memory.writeBytes s.mem (frameAddr 0) bytes }

/-- A machine whose render stands at `p`, every configured channel and its unit as given. -/
def at_ (s : State) (p : RenderPhase) (c : Chan) (t : TxUnit → TxUnit) : State :=
  { (s.updChans fun i d => if i.val < s.chanCount then c else d).updUnits fun u v => if s.serves u then t v else v with
    phase := p }

/-- A channel with a buffer, nothing encoded, and the given flight and signal. -/
def held (inFlight : Bool) (sig : Signal) : Chan := { Chan.reset with bufValid := true, inFlight := inFlight, sig := sig }

/-! ### One step of each operation -/

/-- V-CTL-18. -/
theorem test_nop : nextOf (exec .nop (ready 2#4)) = some (ready 2#4) := by decide

/-- V-CTL-2: CONFIG, MAP, UNIT_CONF[0], UNIT_CONF[4], UNIT_TXLIM[4], INT_ENA, STATUS. -/
theorem test_init :
    regsAfter (.init 2#4 2#4) bound [.config, .map, .unitConf 0, .unitConf 4, .unitTxlim 4, .intEna, .status] =
      some [0x00008042#32, 0x40#32, 0x00046401#32, 0x01056401#32, 128#32, 0x00001111#32, 0x01#32] := by decide

/-- V-CTL-7: FAULT, STATUS, CONFIG. -/
theorem test_init_config_error :
    regsAfter (.init 2#4 1#4) bound [.fault, .status, .config] = some [0x02#32, 0x10#32, 0#32] := by decide

/-- V-LOAD-1: lengths, flags, STATUS, and ENC[1]. -/
theorem test_load :
    let s := staged (ready 2#4) [0xFF#8, 0#8, 0#8, 0#8, 0xFF#8, 0#8]
    regsAfter (.load 2#16) s [.chLen 0, .chLen 1, .chFlags 0, .chFlags 1, .status] =
      some [3#32, 3#32, 0x11#32, 0x11#32, 0x03#32] ∧
    (nextOf (exec (.load 2#16) s)).map (fun t => (t.chan 1).enc) = some [0#8, 0xFF#8, 0#8] := by decide

/-- V-LOAD-3, and V-LOAD-4. -/
theorem test_load_faults :
    regsAfter (.load 65#16) (ready 1#4) [.fault] = some [0x06#32] ∧
    regsAfter (.load 65#16) { ready 1#4 with phase := .loaded } [.fault] = some [0x05#32] := by decide

/-- R156 with S1: on a machine whose halves hold one byte, the bytes FF and 00 of channel 1 (R132 gives it pixel 0 of four), and the
END words of the empty channel 0; STATUS as in V-ARB-9. -/
theorem test_prime :
    let s := (readySmall 8#4).loadFrame 4 (0xFF#8 :: List.replicate 11 0#8)
    (nextOf (exec .prime s)).map (fun t => [t.pram 0, t.pram 7, t.pram 8, t.pram 15, t.pram 16, t.pram 24]) =
      some [some 0#32, some 0#32, none, none, some 0x000F8019#32, some 0x001E800A#32] ∧
    regsAfter .prime s [.status, .chPos 1, .chFlags 1, .chFlags 0] = some [0x05#32, 2#32, 0x11#32, 0x10#32] := by decide +kernel

/-- V-ARB-11. -/
theorem test_prime_sequence_error : regsAfter .prime (ready 2#4) [.fault] = some [0x05#32] := by decide

/-- V-CTL-10. -/
theorem test_arm :
    regsAfter .arm (at_ (ready 2#4) .primed (held false .none) id) [.chFlags 0, .chFlags 1, .status] =
      some [0x14#32, 0x14#32, 0x07#32] := by decide

/-- V-CTL-11; the pointers of a former render are cleared. -/
theorem test_start :
    regsAfter .start (at_ (ready 2#4) .armed (held false .clear) fun t => { t with rdptr := 24#12, cnt := 24#12 })
        [.unitConf 0, .unitConf 4, .unitConf 1, .unitPtr 4, .chFlags 1, .status] =
      some [0x0000E401#32, 0x0100E401#32, 0#32, 0#32, 0x34#32, 0x29#32] := by decide

/-- V-CTL-17. -/
theorem test_start_sequence_error : regsAfter .start (ready 2#4) [.fault] = some [0x05#32] := by decide

/-- V-CTL-13, and V-CTL-12. -/
theorem test_wait :
    regsAfter (.wait 1) (at_ (ready 2#4) .running (held false .set) id) [.chFlags 1, .chFlags 0, .status] =
      some [0#32, 0x18#32, 0x09#32] ∧
    (nextOf (exec (.wait 0) (at_ (ready 2#4) .running (held true .clear) id))).map (fun t => (t.hold, (t.chan 0).sig)) =
      some (some 0, .clear) := by decide

/-- V-CTL-15. -/
theorem test_wait_bad_channel :
    regsAfter (.wait 2) (at_ (ready 2#4) .running (held true .clear) id) [.fault] = some [0x07#32] := by decide

/-- V-TX-1: UNIT_PTR[0] and the two phases. -/
theorem test_data :
    let s := (ready 8#4).updUnit 0 fun t => { t with active := true, rdptr := 5#12, cnt := 5#12 }
    regsAfter (.pulseData true 25#15 false 15#15) s [.unitPtr 0, .intRaw] = some [0x00060006#32, 0#32] ∧
    (nextOf (exec (.pulseData true 25#15 false 15#15) s)).map (fun t => (t.unit 0).wave) = some [⟨true, 25#15⟩, ⟨false, 15#15⟩] := by
  decide

/-- V-TX-2 and V-TX-3: the limit and the end of the region. -/
theorem test_data_limit :
    regsAfter (.pulseData true 10#15 false 30#15) ((ready 8#4).updUnit 0 fun t => { t with rdptr := 31#12, cnt := 31#12 })
        [.unitPtr 0, .intRaw] = some [32#32, 1#32] ∧
    regsAfter (.pulseData true 10#15 false 30#15) ((ready 8#4).updUnit 0 fun t => { t with rdptr := 63#12, cnt := 31#12 })
        [.unitPtr 0, .intRaw] = some [0#32, 1#32] := by decide

/-- V-TX-4. -/
theorem test_end :
    regsAfter (.pulseEnd 0#17) ((ready 8#4).updUnit 0 fun t => { t with active := true, rdptr := 24#12, cnt := 24#12 })
        [.unitConf 0, .intRaw, .unitPtr 0] = some [0x00006101#32, 0x100#32, 0x00180018#32] := by decide

/-- V-TX-5. -/
theorem test_half :
    (nextOf (exec (.pulseHalf true 10#15 false) (ready 8#4))).map State.modelFault = some (some .unmodelledPulse) := by decide

/-- V-SVC-1 with V-ARB-10: a service with nothing left to write flips SEL only, and clears THR_RAW. -/
theorem test_thr :
    let s := at_ (ready 8#4) .running { held true .clear with sel := true } fun t => { t with thrRaw := true }
    regsAfter (.eventThr 0) s [.chFlags 0, .intRaw] = some [0x34#32, 0xFE#32] ∧
    (nextOf (exec (.eventThr 0) s)).map State.mem = some [] := by decide

/-- R150 case (a) on a machine whose halves hold one byte: byte 2 of channel 0, its last, goes to the half SEL names. -/
theorem test_thr_data :
    let s := at_ (readySmall 8#4) .running { held true .clear with enc := [1#8, 2#8, 0#8], pos := 2#18, sel := true } id
    (nextOf (exec (.eventThr 0) s)).map (fun t => [t.pram 7, t.pram 8, t.pram 15]) =
      some [none, some 0x001E800A#32, some 0x07D0800A#32] ∧
    regsAfter (.eventThr 0) s [.chPos 0, .chFlags 0] = some [3#32, 0x35#32] := by decide

/-- A threshold event lost and then served before the next fetch (R220, A19; log 12). -/
theorem test_thr_late :
    let s := at_ (ready 8#4) .running (held true .clear) fun t => { t with active := true, thrRaw := true }
    (nextOf (exec (.eventThr 0) s)).map (fun t => (t.modelFault, (t.unit 0).thrRaw, (t.chan 0).sel)) =
      some (some .underrun, true, false) := by decide

/-- V-SVC-2. -/
theorem test_endEvent :
    regsAfter (.eventEnd 4) ((at_ (ready 2#4) .running (held true .clear) id).updUnit 4 fun t => { t with endRaw := true })
        [.intRaw, .chFlags 1, .chFlags 0] = some [0#32, 0x18#32, 0x34#32] := by decide

/-! ### Witnesses: states and operands that meet each statement's hypotheses, clause by clause, at the ends of their ranges -/

/-- A machine with channel 1's pixel loaded and the seven other channels' shares as R132 gives them: empty or one pixel. -/
def loaded : State := (readySmall 8#4).loadFrame 4 (0xFF#8 :: List.replicate 11 0#8)

/-- A machine in a render of empty channels; unit 0 is to fetch the END word at the start of its region. -/
def sending : State :=
  { at_ (readySmall 8#4) .running (held true .clear) (fun t => { t with active := true }) with
    mem := Memory.writeWords [] (pramAddr 0) [0#32], schedule := [.unit 0, .service 0] }

/-- The same with every unit stopped and its end event pending. -/
def stopped : State :=
  { at_ (readySmall 8#4) .running (held true .clear) (fun t => { t with endRaw := true }) with schedule := [.service 0] }

/-- A machine in a render whose unit 0 has a threshold event pending, the other half being read. -/
def refilling : State :=
  { at_ (readySmall 8#4) .running { held true .clear with enc := [1#8, 2#8, 0#8], pos := 2#18, dirty := true }
      (fun t => { t with active := true, thrRaw := true, rdptr := 8#12 }) with schedule := [.service 0] }

/-- A machine in a render whose units reach their limit again with the last threshold event pending; unit 0 is to fetch a DATA word
(V-TX-8 before its step 64). -/
def losing : State :=
  { at_ (readySmall 8#4) .running { held true .clear with enc := List.replicate 3 1#8, pos := 2#18, dirty := true }
      (fun t => { t with active := true, thrRaw := true, rdptr := 15#12, cnt := 7#12 }) with
    mem := Memory.writeWords [] (pramAddr 15) [0x001E800A#32], schedule := [.unit 0] }

/-- The same after the event of unit 0 is lost. -/
def lost : State :=
  losing.updUnit 0 fun t => { t with rdptr := 0#12, cnt := 0#12 }

/-- Every invariant but the two that need a proof of their own is evaluated. -/
theorem test_witness_Inv_loaded : loaded.Inv ∧ loaded.HalfInv :=
  ⟨⟨by decide, by decide, by decide, by decide, by decide⟩, by decide⟩

theorem test_witness_Inv_sending : sending.Inv ∧ sending.HalfInv :=
  ⟨⟨by decide, by decide, by decide, by decide, by decide⟩, by decide⟩

theorem test_witness_Inv_stopped : stopped.Inv ∧ stopped.HalfInv :=
  ⟨⟨by decide, by decide, by decide, by decide, by decide⟩, by decide⟩

theorem test_witness_Inv_losing : losing.Inv ∧ losing.HalfInv :=
  ⟨⟨by decide, by decide, by decide, by decide, by decide⟩, by decide⟩

theorem test_witness_Inv_refilling : refilling.Inv ∧ refilling.HalfInv :=
  ⟨⟨by decide, by decide, by decide, by decide, by decide⟩, by decide⟩

/-! #### Encodings, encoder, partition, reset -/

theorem test_witness_DecodeOfEncode :
    (Instr.pulseData true 1#15 false 1#15).WellFormed ∧ (Instr.pulseData false 0x7FFF#15 true 0x7FFF#15).WellFormed ∧
    (Instr.pulseHalf true 1#15 true).WellFormed ∧ (Instr.load 0xFFFF#16).WellFormed ∧ (Instr.wait 7).WellFormed := by decide

theorem test_witness_EncodeOfDecode :
    decode (.cmd 0x60000007#32) = .ok (.wait 7) ∧ decode (.pulse 0x00010001#32) = .ok (.pulseData false 1#15 false 1#15) ∧
    decode (.event 0xF#4) = .ok (.eventEnd 7) := by decide

theorem test_witness_PulseWordsHaveOneClass :
    bits 0x80008000#32 0 15 = 0#15 ∧ (bits 0x00010001#32 0 15 ≠ 0#15 ∧ bits 0x00010001#32 16 15 ≠ 0#15) ∧
    (bits 0x80008001#32 0 15 ≠ 0#15 ∧ bits 0x80008001#32 16 15 = 0#15) := by decide

/-- The last word of a last byte (V-ENC-5). -/
theorem test_witness_BytesAreSentMsbFirst :
    7 < 8 ∧ (encodeByte Params.sample 1#8 true)[7]? = some 0x07D08019#32 := by decide

/-- The last byte of two, and a word of the stream. -/
theorem test_witness_StreamKeepsArrayOrder :
    [1#8, 2#8][1]? = some 2#8 ∧ 7 < 8 ∧ 0x07D0800A#32 ∈ stream Params.sample [1#8, 2#8] := by decide

theorem test_witness_PartitionIsExact : 0 < 8 ∧ 7 < 8 ∧ partLo 65535 8 7 = 57343 := by decide

theorem test_witness_ChannelsMapToUnits : LegalCount 8 ∧ (7 : Fin 8).val < 8 ∧ mapUnit 8 7 = mapUnit 8 7 := by decide

theorem test_witness_RegionsTilePulseMemory :
    (readySmall 8#4).Configured ∧ 127 < (readySmall 8#4).cfg.pramWords ∧ (ready 1#4).Configured ∧
    511 < (ready 1#4).cfg.pramWords := ⟨by decide, by decide, by decide, by decide⟩

theorem test_witness_ResetValues :
    Reg.unitPtr 7 ≠ .id ∧ Reg.unitPtr 7 ≠ .param0 ∧ Reg.unitPtr 7 ≠ .param1 ∧ Reg.unitPtr 7 ≠ .t0 ∧ Reg.unitPtr 7 ≠ .t1 ∧
    Reg.unitPtr 7 ≠ .trst := by decide

theorem test_witness_ResetAtAnyTime :
    ({ refilling with schedule := [.reset [], .host] } : State).schedule = .reset [] :: [.host] := by decide

/-! #### Commands -/

theorem test_witness_NopChangesNothing : bits 0x00000001#32 28 4 = 0#4 ∧ bits 0x00000001#32 0 28 ≠ 0#28 := by decide

theorem test_witness_InitConfigures :
    bound.fault = none ∧ bound.initDone = false ∧ LegalCount (1#4).toNat ∧ LegalCount (8#4).toNat ∧
    (ready 1#4).fault = none ∧ (ready 1#4).initDone = true ∧
    ¬ (LegalCount (0#4).toNat ∧ 0#4 = 0#4) ∧ ¬ (LegalCount (9#4).toNat ∧ 9#4 = 9#4) ∧ ¬ (LegalCount (2#4).toNat ∧ 1#4 = 2#4) := by
  decide

/-- A full frame of two pixels, and an empty one; one pixel of which a byte is missing. -/
theorem test_witness_LoadFillsBuffers :
    (let s := staged { ready 2#4 with cfg := { small with raw := { small.raw with maxPixels := 2 }, valid := by decide } }
        (List.replicate 6 7#8);
      s.Ready ∧ s.phase = .idle ∧ (2#16).toNat ≤ s.cfg.raw.maxPixels ∧
        (∀ k < 3 * (2#16).toNat, Memory.read s.mem (frameAddr k) ≠ none) ∧ s.cfg.raw.maxPixels < (3#16).toNat) ∧
    ((ready 8#4).Ready ∧ (ready 8#4).phase = .idle ∧ (0#16).toNat ≤ (ready 8#4).cfg.raw.maxPixels ∧
      (∀ k < 3 * (0#16).toNat, Memory.read (ready 8#4).mem (frameAddr k) ≠ none)) ∧
    (bound.fault = none ∧ bound.initDone = false) ∧ (loaded.Ready ∧ loaded.phase ≠ .idle) ∧
    (let s := staged (ready 1#4) [1#8, 2#8];
      s.Ready ∧ s.phase = .idle ∧ (1#16).toNat ≤ s.cfg.raw.maxPixels ∧
        ∃ k < 3 * (1#16).toNat, Memory.read s.mem (frameAddr k) = none) := by decide

/-- Channel 0 has no data, channel 7 has; the last word of both halves. The invariants hold (test_witness_Inv_loaded). -/
theorem test_witness_PrimeWritesBothHalves :
    (loaded.Ready ∧ loaded.phase = .loaded ∧ 7 < loaded.chanCount ∧ (loaded.chan 0).len = 0 ∧ 0 < (loaded.chan 7).len ∧
      15 < 2 * loaded.wp.toNat ∧ (ready 1#4).chanCount ≤ 7) ∧
    (bound.fault = none ∧ bound.initDone = false) ∧ ((ready 1#4).Ready ∧ (ready 1#4).phase ≠ .loaded) := by decide

theorem test_witness_ArmCreatesSignals :
    (let s := at_ (ready 2#4) .primed (held false .none) id;
      s.Ready ∧ s.phase = .primed ∧ 1 < s.chanCount) ∧
    (bound.fault = none ∧ bound.initDone = false) ∧ (loaded.Ready ∧ loaded.phase ≠ .primed) := by decide

theorem test_witness_ArmCreatesSignals_Inv : (at_ (ready 2#4) .primed (held false .none) id).Inv :=
  ⟨by decide, by decide, by decide, by decide, by decide⟩

theorem test_witness_StartLaunchesUnits :
    (let s := at_ (ready 2#4) .armed (held false .clear) id;
      s.Ready ∧ s.phase = .armed ∧ (∃ i : Fin 8, i.val < s.chanCount ∧ s.unitOf i = 4) ∧
        ∀ i : Fin 8, i.val < s.chanCount → s.unitOf i ≠ 1) ∧
    (bound.fault = none ∧ bound.initDone = false) ∧ (loaded.Ready ∧ loaded.phase ≠ .armed) := by decide

/-- The signal given on one of two channels, on the last one, and not given; channel 2 of two; a channel already released. -/
theorem test_witness_WaitReleasesChannel :
    (let s := at_ (ready 2#4) .running (held false .set) id;
      s.Ready ∧ s.phase = .running ∧ (1 : Fin 8).val < s.chanCount ∧ (s.chan 1).bufValid = true ∧ (s.chan 1).sig = .set ∧
        s.chanCount ≤ (2 : Fin 8).val) ∧
    (let s := at_ (ready 1#4) .running (held false .set) id;
      s.Ready ∧ s.phase = .running ∧ (0 : Fin 8).val < s.chanCount ∧ (s.chan 0).bufValid = true ∧ (s.chan 0).sig = .set) ∧
    (sending.Ready ∧ sending.phase = .running ∧ (7 : Fin 8).val < sending.chanCount ∧ (sending.chan 7).bufValid = true ∧
      (sending.chan 7).sig ≠ .set) ∧
    (bound.fault = none ∧ bound.initDone = false) ∧ (loaded.Ready ∧ loaded.phase ≠ .running) ∧
    (let s := (at_ (ready 2#4) .running (held false .set) id).release 0;
      s.Ready ∧ s.phase = .running ∧ (0 : Fin 8).val < s.chanCount ∧ (s.chan 0).bufValid = false) := by decide

/-- Held on a channel whose signal is not given, and on one whose signal is. -/
theorem test_witness_HeldHostReturnsOnSignal :
    (let s := { sending with schedule := [.host], hold := some 1 };
      s.schedule = .host :: [] ∧ s.modelFault = none ∧ s.hold = some 1 ∧ (s.chan 1).sig ≠ .set) ∧
    (let s := { at_ (ready 2#4) .running (held false .set) id with schedule := [.host], hold := some 1 };
      s.schedule = .host :: [] ∧ s.modelFault = none ∧ s.hold = some 1 ∧ (s.chan 1).sig = .set) := by decide

/-- A host step that writes INIT, a host step after INIT, and a command before INIT. -/
theorem test_witness_InitDoneUntilReset :
    (let s := { bound with schedule := [.host], program := [.write .word 0x004#18 0x10000022#32] };
      s.nextTurn = .host ∧ s.initDone = false ∧ (nextOf (step s)).map State.initDone = some true) ∧
    (let s := { ready 2#4 with schedule := [.host] };
      s.nextTurn = .host ∧ s.initDone = true ∧ (nextOf (step s)).isSome = true) ∧
    (bound.fault = none ∧ bound.initDone = false ∧ decode (.cmd 0x60000007#32) = .ok (.wait 7) ∧ Instr.wait 7 ≠ .nop ∧
      ∀ nch ngpio, Instr.wait 7 ≠ .init nch ngpio) := by decide

theorem test_witness_HaltedEngineIgnoresWrites : ({ ready 1#4 with fault := some .badAccess } : State).fault ≠ none := by decide

/-! #### Pulse words and events -/

/-- Below the limit, at the limit, and at the end of the region. -/
theorem test_witness_DataWordDrivesTwoPhases :
    (let s := (ready 8#4).updUnit 0 fun t => { t with rdptr := 63#12, cnt := 31#12 };
      0 < s.regionWords s.txUnit ∧ (s.unit s.txUnit).cnt.toNat + 1 = (s.unit s.txUnit).txLim.toNat) ∧
    (let s := (ready 8#4).updUnit 0 fun t => { t with rdptr := 62#12, cnt := 30#12 };
      (s.unit s.txUnit).cnt.toNat + 1 ≠ (s.unit s.txUnit).txLim.toNat ∧ (7 : Fin 8) ≠ s.txUnit) := by decide

/-- Live data, a flush, and nothing, in the two halves; no event is lost. -/
theorem test_witness_ThresholdServiceRefillsHalf :
    (let s := refilling;
      let c := s.chan 7;
      ¬ s.EventLost 7 ∧ s.chanOf 7 = 7 ∧ c.pos.toNat < c.len ∧ 7 < s.wp.toNat ∧ c.sel = false) ∧
    (let s := at_ (readySmall 8#4) .running { held true .clear with dirty := true, sel := true } id;
      ¬ s.EventLost 7 ∧ (s.chan 7).len ≤ (s.chan 7).pos.toNat ∧ (s.chan 7).dirty = true ∧ (s.chan 7).sel = true ∧ 7 < s.wp.toNat) ∧
    (let s := at_ (readySmall 8#4) .running (held true .clear) id;
      ¬ s.EventLost 7 ∧ (s.chan 7).len ≤ (s.chan 7).pos.toNat ∧ (s.chan 7).dirty = false) := by decide

/-- The invariants hold there (test_witness_Inv_stopped). -/
theorem test_witness_EndServiceGivesSignal : (stopped.unit 7).endRaw = true := by decide

/-! #### Bus accesses and registers -/

/-- The last unlisted offset below each bank of R22, and the top one. -/
theorem test_witness_RegionsAdmitAccesses :
    [0x028, 0x02C, 0x03C, 0x05C, 0x060, 0x07C, 0x108, 0x10C, 0x13C, 0x19C, 0x1A0, 0xFFC].map (fun o => (regAt o).isSome) =
      [true, false, false, true, false, false, true, false, false, true, false, false] := by decide

/-- No region; a pulse word; a read-only register; and a machine that is HALTED (V-FLT-10). -/
theorem test_witness_BadAccessesFault :
    (ready 1#4).fault = none ∧ busTarget (ready 1#4).cfg .word 0x01800#18 = none ∧ busTarget (ready 1#4).cfg .byte 0x100C0#18 = none ∧
    busTarget (ready 1#4).cfg .word 0x017FC#18 = some (.pram 511) ∧
    busTarget (ready 1#4).cfg .word 0x19C#18 = some (.reg (.unitPtr 7)) ∧ Reg.unitPtr 7 ≠ .cmd ∧
    (∀ i, Reg.unitPtr 7 ≠ .gpio i) ∧
    (let s := { ready 1#4 with fault := some .badChannel };
      s.fault ≠ none ∧ busTarget s.cfg .word 0x01800#18 = none) := by decide

/-- V-FLT-10: FAULT keeps the first code, and the read returns 0. -/
theorem test_halted_bad_access :
    let s := { ready 1#4 with fault := some .badChannel }
    (nextOf (busRead .word 0x01800#18 s)).map (fun t => (t.fault, t.reads)) = some (some .badChannel, [0#32]) := by decide

theorem test_witness_ReadsChangeNothing :
    busTarget sending.cfg .word 0x19C#18 = some (.reg (.unitPtr 7)) ∧
    (busTarget sending.cfg .word 0x01000#18 = some (.pram 0) ∧ Memory.readWord sending.mem (pramAddr 0) = some 0#32) ∧
    (let s := staged (ready 1#4) [0xAA#8, 0xBB#8];
      busTarget s.cfg .half 0x10000#18 = some (.frame 0) ∧ [0xAA#8, 0xBB#8].length = Width.bytes .half ∧
        ∀ j < Width.bytes .half, Memory.read s.mem (frameAddr (0 + j)) = [0xAA#8, 0xBB#8][j]?) := by decide

/-- V-BUS-14, and a half of which only the first byte is written. -/
theorem test_witness_UninitialisedReadsMarkModelFault :
    (busTarget (ready 1#4).cfg .word 0x01000#18 = some (.pram 0) ∧
      ∃ j < 4, Memory.read (ready 1#4).mem (pramAddr 0 + j) = none) ∧
    (let s := staged (ready 1#4) [0xAA#8];
      busTarget s.cfg .half 0x10000#18 = some (.frame 0) ∧ ∃ j < Width.bytes .half, Memory.read s.mem (frameAddr (0 + j)) = none) := by
  decide

/-- V-BUS-11: the last word of the frame memory; and its last byte. -/
theorem test_witness_FrameWritesAreLittleEndian :
    busTarget (ready 1#4).cfg .word 0x100BC#18 = some (.frame 188) ∧ busTarget (ready 1#4).cfg .byte 0x100BF#18 = some (.frame 191) := by
  decide

/-- V-BUS-8 and V-BUS-9: what the reads return. -/
theorem test_bus_frame_order :
    (nextOf (busWrite .half 0x10000#18 0xBBAA#32 (ready 1#4))).map (fun t => (nextOf (busRead .byte 0x10001#18 t)).map State.reads) =
      some (some [0xBB#32]) ∧
    (nextOf (busWrite .word 0x10000#18 0x00563412#32 (ready 1#4))).map
        (fun t => (nextOf (busRead .byte 0x10002#18 t)).map State.reads) = some (some [0x56#32]) := by decide

/-- V-BUS-4, V-BUS-5, V-BUS-6, V-BUS-10, V-BUS-12, V-BUS-16. -/
theorem test_bus_refuses :
    [busTarget Params.sample .byte 0x004#18, busTarget Params.sample .half 0x008#18, busTarget Params.sample .word 0x02C#18,
      busTarget Params.sample .word 0x10001#18, busTarget Params.sample .byte 0x100C0#18, busTarget Params.sample .word 0x01800#18] =
      List.replicate 6 none := by decide

/-- V-BUS-1 and V-BUS-19, with PARAM1, T1 and TRST of spec/95_test_vectors.md part 0. -/
theorem test_constant_registers :
    [Reg.id, .param0, .param1, .t0, .t1, .trst].map (ready 1#4).readReg =
      [0x57532811#32, 0x01080840#32, 0x00000040#32, 0x001E000A#32, 0x000F0019#32, 0x000007D0#32] := by decide

theorem test_witness_GpioWrites :
    bound.fault = none ∧ bound.initDone = false ∧ (ready 1#4).fault = none ∧ (ready 1#4).initDone = true := by decide

theorem test_witness_StatusRegisters :
    bound.fault = none ∧ ({ bound with fault := some .badAccess } : State).fault = some .badAccess := by decide

theorem test_witness_InterruptAndMapWords : 16 ≤ 16 := by decide

theorem test_witness_RestingLineIsIdleLevel :
    ((ready 2#4).unit 4).used = true ∧ ((ready 2#4).unit 4).active = false ∧ (ready 2#4).ConfigInv := by decide

/-! #### Steps -/

/-- A command, legal and not; a read; a write elsewhere; no access left; a command while HALTED. -/
theorem test_witness_HostStepRunsCommand :
    (let s := { bound with schedule := [.host, .unit 0], program := [.write .word 0x004#18 0x10000022#32] };
      s.schedule = .host :: [.unit 0] ∧ s.modelFault = none ∧ s.hold = none ∧ s.program = .write .word 0x004#18 0x10000022#32 :: []) ∧
    decode (.cmd 0x10000022#32) = .ok (.init 2#4 2#4) ∧ decode (.cmd 0x70000000#32) = .error .illegalCommand ∧ bound.fault = none ∧
    (let s := { bound with schedule := [.host], program := [.read .byte 0x3FFFF#18] };
      s.schedule = .host :: [] ∧ s.modelFault = none ∧ s.hold = none ∧ s.program = .read .byte 0x3FFFF#18 :: []) ∧
    (let s := { bound with schedule := [.host], program := [.write .word 0x05C#18 9#32] };
      s.schedule = .host :: [] ∧ s.modelFault = none ∧ s.hold = none ∧ s.program = .write .word 0x05C#18 9#32 :: []) ∧
    (let s := { bound with schedule := [.host] };
      s.schedule = .host :: [] ∧ s.modelFault = none ∧ s.hold = none ∧ s.program = []) ∧
    (let s := { bound with
        schedule := [.host], program := [.write .word 0x004#18 0x70000000#32], fault := some .badAccess };
      s.schedule = .host :: [] ∧ s.modelFault = none ∧ s.hold = none ∧
        s.program = .write .word 0x004#18 0x70000000#32 :: [] ∧ s.fault ≠ none) := by
  decide

/-- A unit at rest; an underrun (V-TX-8); an END word; a word never written. -/
theorem test_witness_UnitStepRunsFetchedWord :
    ({ stopped with schedule := [.unit 0] } : State).schedule = .unit 0 :: [] ∧ stopped.modelFault = none ∧
      (stopped.unit 0).active = false ∧
    (let s := (ready 8#4).updUnit 0 fun t => { t with active := true, thrRaw := true };
      (s.unit 0).active = true ∧ (s.unit 0).thrRaw = true ∧ s.halfRead 0 = (s.chan (s.chanOf 0)).sel.toNat) ∧
    ((sending.unit 0).active = true ∧ ¬ ((sending.unit 0).thrRaw = true ∧ sending.halfRead 0 = (sending.chan (sending.chanOf 0)).sel.toNat) ∧
      sending.pram (sending.base 0 + (sending.unit 0).rdptr.toNat) = some 0#32 ∧ decode (.pulse 0#32) = .ok (.pulseEnd 0#17)) ∧
    (sending.unit 1).active = true ∧ (sending.unit 1).thrRaw = false ∧
      sending.pram (sending.base 1 + (sending.unit 1).rdptr.toNat) = none := by decide

theorem test_witness_ServiceStepTakesEligibleEvent :
    (refilling.schedule = .service 0 :: [] ∧ refilling.modelFault = none ∧ (refilling.unit 0).thrRaw = true ∧
      (refilling.unit 0).thrEna = true) ∧
    (stopped.schedule = .service 0 :: [] ∧ stopped.modelFault = none ∧ (stopped.unit 0).thrRaw = false ∧
      (stopped.unit 0).endRaw = true ∧ (stopped.unit 0).endEna = true) ∧
    (let s := { ready 8#4 with schedule := [.service 0] };
      s.schedule = .service 0 :: [] ∧ ¬ ((s.unit 0).thrRaw = true ∧ (s.unit 0).thrEna = true) ∧
        ¬ ((s.unit 0).thrRaw = false ∧ (s.unit 0).endRaw = true ∧ (s.unit 0).endEna = true)) := by decide

/-- Words of the twelve rows, but for words that two rows share. -/
theorem test_witness_StepRunsPlacedWord :
    [0x00000000, 0x10000022, 0x20000041, 0x30000000, 0x40000000, 0x50000000, 0x60000007, 0x001E800A, 0x80008000, 0x0000800A].map
        (decodeTableWord 32) =
      [some .nop, some (.init 2#4 2#4), some (.load 65#16), some .prime, some .arm, some .start, some (.wait 7),
        some (.pulseData true 10#15 false 30#15), some (.pulseEnd 0x10001#17), some (.pulseHalf true 10#15 false)] ∧
    [0x3, 0xC].map (decodeTableWord 8) = [some (.eventThr 3), some (.eventEnd 4)] := by decide

theorem test_witness_ModelFaultStopsNextStep :
    (let s := { sending with modelFault := some .underrun };
      s.modelFault = some .underrun ∧ s.nextTurn = .unit 0) := by decide

/-! #### The whole machine -/

/-- The state after a step, if the step answers one. -/
def stepped (s : State) : State := (nextOf (step s)).getD s

theorem step_eq_next {s : State} (h : (nextOf (step s)).isSome = true) : step s = .next (stepped s) := by
  unfold stepped
  cases hs : step s with
  | next t => rfl
  | fault k => rw [hs] at h; cases h
  | refused r => rw [hs] at h; cases h

/-- Whether the next turn is not the reset input's. -/
def unreset (s : State) : Bool :=
  match s.nextTurn with
  | .reset _ => false
  | _ => true

theorem nextTurn_ne_reset {s : State} (h : unreset s = true) (program : List Access) : s.nextTurn ≠ .reset program := by
  intro e
  rw [unreset, e] at h
  cases h

/-- A state that meets the premises of StepKeepsMemory, StepKeepsConfiguration, StepKeepsChannelBounds, StepKeepsPointers,
StepKeepsChannelLife and StepKeepsHalvesApart; the invariants hold there (test_witness_Inv_refilling). -/
theorem test_witness_StepKeeps : step refilling = .next (stepped refilling) ∧ ¬ refilling.LosingEvent :=
  ⟨step_eq_next (by decide), by decide⟩

/-- A step after INIT that does not reset the machine. -/
theorem test_witness_StepKeepsConfiguration :
    refilling.initDone = true ∧ (∀ program, refilling.nextTurn ≠ .reset program) :=
  ⟨by decide, nextTurn_ne_reset (by decide)⟩

/-- A step that loses an event, in a state that keeps the invariants (test_witness_Inv_losing). -/
theorem test_witness_StepKeepsHalvesApart :
    losing.LosesEvent 0 ∧ step losing = .next (stepped losing) ∧ ((stepped losing).unit 0).active = true ∧
    (stepped losing).modelFault = none :=
  ⟨by decide, step_eq_next (by decide), by decide, by decide⟩

/-- After a loss: the turn of the unit, of the service at it, and of another agent. -/
theorem test_witness_StepKeepsHalvesApart_lost :
    lost.EventLost 0 ∧ lost.modelFault = none ∧ lost.nextTurn = .unit 0 ∧
    (let s := { lost with schedule := [.service 0] };
      s.EventLost 0 ∧ s.nextTurn = .service 0 ∧ (s.unit 0).thrEna = true) ∧
    (let s := { lost with schedule := [.service 1] };
      s.ConfigInv ∧ s.LifeInv ∧ s.EventLost 0 ∧ step s = .next (stepped s) ∧
        (∀ program, s.nextTurn ≠ .reset program) ∧ s.nextTurn ≠ .unit 0 ∧ s.nextTurn ≠ .service 0) :=
  ⟨by decide, by decide, by decide, by decide, by decide, by decide, by decide, step_eq_next (by decide),
    nextTurn_ne_reset (by decide), by decide, by decide⟩

/-- Steps 64 and 65 of V-TX-8, on the small machine: the event is lost, and the next fetch is the UNDERRUN. -/
theorem test_lost_event :
    (((stepped losing).unit 0).rdptr, ((stepped losing).unit 0).thrRaw) = (0#12, true) ∧
    (nextOf (step { stepped losing with schedule := [.unit 0] })).map State.modelFault = some (some .underrun) := by decide

/-- A step of unit 0, for unit 0 and for another unit. -/
theorem test_witness_OnlyUnitsAppendToWaves :
    step sending = .next (stepped sending) ∧ (∀ program, sending.nextTurn ≠ .reset program) ∧ sending.nextTurn ≠ .unit 7 :=
  ⟨step_eq_next (by decide), nextTurn_ne_reset (by decide), by decide⟩

theorem test_witness_FirstFaultStays :
    (let s := { sending with fault := some .badAccess };
      step s = .next (stepped s) ∧ (∀ program, s.nextTurn ≠ .reset program) ∧ s.fault = some .badAccess) :=
  ⟨step_eq_next (by decide), nextTurn_ne_reset (by decide), rfl⟩

/-- The first byte of pulse memory, written by PRIME, and by a threshold service. -/
theorem test_witness_OnlyCopiesWritePulseMemory :
    (let s := { loaded with schedule := [.host], program := [.write .word 0x004#18 0x30000000#32] };
      step s = .next (stepped s) ∧ (∀ program, s.nextTurn ≠ .reset program) ∧ pramAddr 0 < frameAddr 0 ∧
        Memory.read (stepped s).mem (pramAddr 0) ≠ Memory.read s.mem (pramAddr 0)) ∧
    step refilling = .next (stepped refilling) ∧ (∀ program, refilling.nextTurn ≠ .reset program) ∧
      Memory.read (stepped refilling).mem (pramAddr 0) ≠ Memory.read refilling.mem (pramAddr 0) :=
  ⟨⟨step_eq_next (by decide +kernel), nextTurn_ne_reset (by decide), by decide, by decide +kernel⟩,
    step_eq_next (by decide), nextTurn_ne_reset (by decide), by decide⟩

theorem test_witness_UnitsAreIsolated :
    sending.nextTurn = .unit 0 ∧ step sending = .next (stepped sending) ∧ (7 : Fin 8) ≠ 0 :=
  ⟨by decide, step_eq_next (by decide), by decide⟩

theorem test_witness_ServicesCommute :
    stopped.Configured ∧ stopped.MemInv ∧ (0 : Fin 8) ≠ 7 ∧ (stopped.unit 0).used = true ∧ (stopped.unit 7).used = true :=
  ⟨by decide, by decide, by decide, by decide, by decide⟩

/-! #### Renders -/

/-- Channel 0 of `loaded` is at the start of a render. -/
theorem loaded_streamInv : loaded.StreamInv 0 [] where
  loaded _ :=
    { copied := { pos := by decide, sel := by decide, dirty := by decide }
      sent_le := by decide
      wave := by decide
      words := fun j _ _ h => absurd h (by rw [Nat.zero_mul]; exact Nat.not_lt_zero j) }
  primed h := absurd h (by decide)
  sending h := absurd h (by decide)
  stopped h := absurd h (by decide)

/-- Channel 0 of `sending` has sent nothing and has nothing to send. -/
theorem sending_streamInv : sending.StreamInv 0 [] where
  loaded h := absurd h (by decide)
  primed h := absurd h (by decide)
  sending _ _ :=
    ⟨2, 0,
      { copied := { pos := by decide, sel := by decide, dirty := by decide }
        sent_le := by decide
        wave := by decide
        words := fun j _ h _ => by
          have e : 8 * (sending.chan 0).len = 0 := by decide
          obtain rfl : j = 0 := by omega
          decide },
      { rdptr := by decide
        cnt := by decide
        primed := by decide
        ahead := by decide }⟩
  stopped _ h := absurd h (by decide)

theorem test_witness_StepKeepsStream :
    0 < sending.chanCount ∧ (sending.chan 0).bufValid = true ∧ (∀ program, sending.nextTurn ≠ .reset program) ∧
    sending.StreamInv 0 [] ∧ step sending = .next (stepped sending) :=
  ⟨by decide, by decide, nextTurn_ne_reset (by decide), sending_streamInv, step_eq_next (by decide)⟩

theorem test_witness_UnitStepsRaiseNoModelFault :
    0 < sending.chanCount ∧ sending.StreamInv 0 [] ∧ sending.modelFault = none ∧ sending.nextTurn = .unit (sending.unitOf 0) :=
  ⟨by decide, sending_streamInv, by decide, by decide⟩

theorem renders_step {i : Fin 8} {s t : State} (h : State.Renders i s t) (held : (t.chan i).bufValid = true)
    (noReset : unreset t = true) (runs : (nextOf (step t)).isSome = true) : State.Renders i s (stepped t) :=
  .next h held (nextTurn_ne_reset noReset) (step_eq_next runs)

/-- `loaded`, with the five steps to come that bring the empty channel 0 to its completion signal. -/
def launching : State :=
  { loaded with
    schedule := [.host, .host, .host, .unit 0, .service 0]
    program := [.write .word 0x004#18 0x30000000#32, .write .word 0x004#18 0x40000000#32, .write .word 0x004#18 0x50000000#32] }

/-- A render of channel 0 up to its completion signal; the invariants hold at its start. -/
theorem test_witness_RenderSendsStream :
    launching.Inv ∧ launching.phase = .loaded ∧ 0 < launching.chanCount ∧
    State.Renders 0 launching (stepped (stepped (stepped (stepped (stepped launching))))) ∧
    ((stepped (stepped (stepped (stepped (stepped launching))))).chan 0).sig = .set ∧
    State.Renders 0 launching (stepped (stepped (stepped (stepped launching)))) ∧
    ((stepped (stepped (stepped (stepped launching)))).unit (launching.unitOf 0)).endRaw = true := by
  have four : State.Renders 0 launching (stepped (stepped (stepped (stepped launching)))) := by
    refine renders_step (renders_step (renders_step (renders_step .start ?_ ?_ ?_) ?_ ?_ ?_) ?_ ?_ ?_) ?_ ?_ ?_
    all_goals decide +kernel
  refine ⟨⟨by decide, by decide, by decide, by decide, by decide⟩, by decide, by decide, renders_step four ?_ ?_ ?_,
    by decide +kernel, four, by decide +kernel⟩
  all_goals decide +kernel

end Sys2Proof.Tests
end

section
/-! PROOFS. The family of spec/00_scope.md: what a step keeps of the parameters and of the fault record (R9, R26, R210), and that a
marked model fault stops the next step (R15, R212). -/

namespace Sys2Proof.Machine

/-! ### The parameters and the fault record -/

/-- `t` has the parameters of `s` and, where a fault is recorded in `s`, the same fault. -/
structure State.KeepsRecord (s t : State) : Prop where
  cfg : t.cfg = s.cfg
  fault : ∀ c, s.fault = some c → t.fault = some c

theorem State.KeepsRecord.of_eq {s t : State} (cfg : t.cfg = s.cfg) (fault : t.fault = s.fault) : s.KeepsRecord t :=
  ⟨cfg, fun _ h => fault.trans h⟩

theorem State.KeepsRecord.refl (s : State) : s.KeepsRecord s := .of_eq rfl rfl

theorem State.KeepsRecord.trans {s t r : State} (h : s.KeepsRecord t) (h' : t.KeepsRecord r) : s.KeepsRecord r :=
  ⟨h'.cfg.trans h.cfg, fun c hc => h'.fault c (h.fault c hc)⟩

theorem State.keepsRecord_takeTurn (s : State) : s.KeepsRecord s.takeTurn := .of_eq s.takeTurn_cfg s.takeTurn_fault

theorem State.keepsRecord_returnRead (s : State) (v : Word) : s.KeepsRecord (s.returnRead v) :=
  .of_eq (s.returnRead_cfg v) (s.returnRead_fault v)

/-- Recording a fault is the one change of the record, and it gives way to an earlier fault (R210). -/
theorem State.keepsRecord_recordFault (s : State) (code : FaultCode) : s.KeepsRecord (s.recordFault code) :=
  ⟨s.recordFault_cfg code, fun c h => by simp [State.recordFault_fault, h]⟩

theorem State.keepsRecord_awaitSignal (s : State) (ch : Fin 8) : s.KeepsRecord (s.awaitSignal ch) := by
  unfold State.awaitSignal
  split
  · exact .of_eq (s.release_cfg ch) (s.release_fault ch)
  · exact .of_eq rfl rfl

theorem CommandEffect.keepsRecord {s t : State} (h : CommandEffect s t) : s.KeepsRecord t := by
  cases h with
  | init nch => exact .of_eq (s.initialise_cfg nch) (s.initialise_fault nch)
  | load pixels frame => exact .of_eq (s.loadFrame_cfg pixels frame) (s.loadFrame_fault pixels frame)
  | prime => exact .of_eq s.primeAll_cfg s.primeAll_fault
  | arm => exact .of_eq s.armAll_cfg s.armAll_fault
  | start => exact .of_eq s.startAll_cfg s.startAll_fault
  | wait ch => exact s.keepsRecord_awaitSignal ch

theorem AccessEffect.keepsRecord {s t : State} (h : AccessEffect s t) : s.KeepsRecord t := by
  cases h with
  | same => exact .refl s
  | fault code => exact s.keepsRecord_recordFault code
  | badRead => exact (s.keepsRecord_returnRead 0#32).trans (State.keepsRecord_recordFault _ .badAccess)
  | read v => exact s.keepsRecord_returnRead v
  | modelFault | gpio | frame => exact .of_eq rfl rfl
  | command effect => exact effect.keepsRecord

theorem hostStep_keepsRecord {s t : State} (h : hostStep s = .next t) : s.KeepsRecord t := by
  obtain rfl | ⟨ch, -, -, rfl⟩ | ⟨-, _, rest, -, effect⟩ := hostStep_cases h
  · exact .refl t
  · exact .of_eq (s.release_cfg ch) (s.release_fault ch)
  · have issued : s.KeepsRecord { s with program := rest } := .of_eq rfl rfl
    exact issued.trans effect.keepsRecord

theorem unitStep_keepsRecord {u : Fin 8} {s t : State} (h : unitStep u s = .next t) : s.KeepsRecord t := by
  obtain ⟨e, -⟩ | ⟨-, ⟨_, e⟩ | ⟨_, e⟩ | e | ⟨_, -, -, e⟩⟩ := unitStep_cases u s <;>
    (cases h.symm.trans e; exact .of_eq rfl rfl)

theorem serviceStep_keepsRecord {u : Fin 8} {s t : State} (h : serviceStep u s = .next t) : s.KeepsRecord t := by
  obtain ⟨e, -⟩ | ⟨e, -⟩ | ⟨e, -⟩ | ⟨e, -⟩ := serviceStep_cases u s <;>
    (cases h.symm.trans e; exact .of_eq rfl rfl)

/-- Every step is the reset input, which keeps the parameters (R240), or a step of an agent, which keeps the fault too. -/
theorem step_keepsRecord {s t : State} (h : step s = .next t) :
    (t.cfg = s.cfg ∧ ∃ program, s.nextTurn = .reset program) ∨ s.KeepsRecord t := by
  obtain ⟨program, turn, rfl⟩ | ⟨-, ⟨-, h⟩ | ⟨_, -, h⟩ | ⟨_, -, h⟩⟩ := step_cases h
  · exact .inl ⟨s.takeTurn_cfg, program, turn⟩
  · exact .inr (s.keepsRecord_takeTurn.trans (hostStep_keepsRecord h))
  · exact .inr (s.keepsRecord_takeTurn.trans (unitStep_keepsRecord h))
  · exact .inr (s.keepsRecord_takeTurn.trans (serviceStep_keepsRecord h))

/-- Settles O53: every agent's step keeps the parameters and a recorded fault; reset keeps the parameters. -/
theorem firstFaultStays : Obligations.FirstFaultStays := by
  intro s t h
  obtain ⟨cfg, program, turn⟩ | kept := step_keepsRecord h
  · exact ⟨cfg, fun noReset => absurd turn (noReset program)⟩
  · exact ⟨kept.cfg, fun _ => kept.fault⟩

/-! ### The stop after a marked model fault -/

theorem guardModelFault_marked {s : State} {k : Fault} (h : s.modelFault = some k) (run : Answer) :
    guardModelFault s run = .fault k := by
  simp [guardModelFault, h]

/-- Settles O44: every agent's step stands behind the same guard, and choosing the agent leaves the mark. -/
theorem modelFaultStopsNextStep : Obligations.ModelFaultStopsNextStep := by
  intro s k marked noReset
  have guarded : ∀ run, guardModelFault s.takeTurn run = .fault k :=
    guardModelFault_marked (s.takeTurn_modelFault.trans marked)
  unfold step
  cases turn : s.nextTurn with
  | host | unit u | service u => exact guarded _
  | reset program => exact absurd turn (noReset program)

end Sys2Proof.Machine
end

section
/-! PROOFS. What the step of each agent does to the engine, in one relation for all agents, so that an invariant of the engine is
proved by one case split (R7, R82, R240). -/

namespace Sys2Proof.Machine

/-! ### States that differ in nothing an invariant reads -/

/-- `t` differs from `s` at most in its marks of faults, in what the host has read and will do, in the order of the agents, and in
the name of the fetching unit. -/
def State.Alike (s t : State) : Prop :=
  t = { s with
    fault := t.fault, modelFault := t.modelFault, txUnit := t.txUnit, program := t.program, reads := t.reads
    schedule := t.schedule, choices := t.choices }

theorem State.Alike.refl (s : State) : s.Alike s := rfl

theorem State.alike_recordFault (s : State) (code : FaultCode) : s.Alike (s.recordFault code) := by
  unfold State.recordFault
  split <;> rfl

theorem State.alike_takeTurn (s : State) : s.Alike s.takeTurn := by
  unfold State.takeTurn
  split <;> rfl

theorem State.Alike.trans {s t r : State} (h : s.Alike t) (h' : t.Alike r) : s.Alike r := by
  unfold State.Alike at *
  rw [h', h]

section
variable {s t : State} (h : s.Alike t)
include h

theorem State.Alike.cfg : t.cfg = s.cfg := by rw [h]
theorem State.Alike.initDone : t.initDone = s.initDone := by rw [h]
theorem State.Alike.phase : t.phase = s.phase := by rw [h]
theorem State.Alike.wp : t.wp = s.wp := by rw [h]
theorem State.Alike.mem : t.mem = s.mem := by rw [h]
theorem State.Alike.hold : t.hold = s.hold := by rw [h]
theorem State.Alike.chan (i : Fin 8) : t.chan i = s.chan i := by rw [h]; rfl
theorem State.Alike.unit (u : Fin 8) : t.unit u = s.unit u := by rw [h]; rfl

theorem State.Alike.configInv (hs : s.ConfigInv) : t.ConfigInv := by rw [h]; exact hs
theorem State.Alike.memInv (hs : s.MemInv) : t.MemInv := by rw [h]; exact hs
theorem State.Alike.chanInv (hs : s.ChanInv) : t.ChanInv := by rw [h]; exact hs
theorem State.Alike.pointerInv (hs : s.PointerInv) : t.PointerInv := by rw [h]; exact hs
theorem State.Alike.lifeInv (hs : s.LifeInv) : t.LifeInv := by rw [h]; exact hs
theorem State.Alike.halfInv (hs : s.HalfInv) : t.HalfInv := by rw [h]; exact hs
theorem State.Alike.eventLost {u : Fin 8} (hs : s.EventLost u) : t.EventLost u := by rw [h]; exact hs

end

theorem State.alike_badRead (s : State) (v : Word) (code : FaultCode) : s.Alike ((s.returnRead v).recordFault code) :=
  State.Alike.trans (t := s.returnRead v) rfl ((s.returnRead v).alike_recordFault code)

/-! ### The effect of an agent's step -/

/-- What a step of the agent named by the turn, or the reset input, does to the engine, in the states where it does so. -/
inductive AgentEffect : Turn → State → State → Prop where
  /-- nothing: an agent with no enabled step, and every bus access that only returns a value or records a fault; a unit that does
  nothing is at rest -/
  | pass {turn : Turn} {s t : State} (alike : s.Alike t) (rests : ∀ u, turn = .unit u → (s.unit u).active = false) :
      AgentEffect turn s t
  /-- a model fault, and nothing else -/
  | marked {turn : Turn} {s t : State} (alike : s.Alike t) (marked : t.modelFault ≠ none) : AgentEffect turn s t
  /-- the return from a WAIT (R186) -/
  | returned {s : State} (ch : Fin 8) (held : s.hold = some ch) (given : (s.chan ch).sig = .set) :
      AgentEffect .host s (s.release ch)
  /-- a write of a GPIO identifier (R33) -/
  | gpio {s : State} (i : Fin 8) (v : BitVec 8) (before : s.initDone = false) :
      AgentEffect .host s { s with gpio := s.gpio.set i v }
  /-- a write of frame bytes (R74) -/
  | frame {s : State} (width : Width) (k : Nat) (value : Word)
      (fits : frameAddr k + width.bytes ≤ frameAddr s.cfg.frameBytes) :
      AgentEffect .host s { s with mem := Memory.writeBytes s.mem (frameAddr k) (splitBytes width.bytes value) }
  /-- a command (R137, R156, R181, R184 to R186) -/
  | command {s t : State} (effect : CommandEffect s t) : AgentEffect .host s t
  /-- an END word (R161) -/
  | stop {s : State} (u : Fin 8) (active : (s.unit u).active = true) : AgentEffect (.unit u) s (s.updUnit u TxUnit.stop)
  /-- a DATA word (R160) -/
  | send {s : State} (u : Fin 8) (first second : WavePhase) (active : (s.unit u).active = true) :
      AgentEffect (.unit u) s (s.updUnit u fun t => t.sendData (s.regionWords u) first second)
  /-- the service of a threshold event (R215) -/
  | serveThr {s : State} (u : Fin 8) (raised : (s.unit u).thrRaw = true) (enabled : (s.unit u).thrEna = true) :
      AgentEffect (.service u) s (s.serveThr u)
  /-- the service of an end event (R216) -/
  | serveEnd {s : State} (u : Fin 8) (raised : (s.unit u).endRaw = true) (enabled : (s.unit u).endEna = true)
      (first : (s.unit u).thrRaw = false) : AgentEffect (.service u) s (s.serveEnd u)
  /-- the reset input (R240) -/
  | reset {s : State} (program : List Access) : AgentEffect (.reset program) s (s.restart program)

theorem AccessEffect.agentEffect {s t : State} (h : AccessEffect s t) : AgentEffect .host s t := by
  cases h with
  | same => exact .pass (.refl s) nofun
  | fault code => exact .pass (s.alike_recordFault code) nofun
  | modelFault => exact .marked rfl nofun
  | badRead => exact .pass (s.alike_badRead _ _) nofun
  | read v => exact .pass rfl nofun
  | gpio i v before => exact .gpio i v before
  | frame width k value fits => exact .frame width k value fits
  | command effect => exact .command effect

theorem hostStep_effect {s t : State} (h : hostStep s = .next t) : ∃ s', s.Alike s' ∧ AgentEffect .host s' t := by
  obtain rfl | ⟨ch, held, given, rfl⟩ | ⟨-, _, rest, -, effect⟩ := hostStep_cases h
  · exact ⟨t, .refl t, .pass (.refl t) nofun⟩
  · exact ⟨s, .refl s, .returned ch held given⟩
  · exact ⟨{ s with program := rest }, rfl, effect.agentEffect⟩

theorem unitStep_effect {u : Fin 8} {s t : State} (h : unitStep u s = .next t) :
    ∃ s', s.Alike s' ∧ AgentEffect (.unit u) s' t := by
  obtain ⟨e, rests⟩ | ⟨active, ⟨_, e⟩ | ⟨_, e⟩ | e | ⟨_, -, -, e⟩⟩ := unitStep_cases u s <;> cases h.symm.trans e
  · exact ⟨s, .refl s, .pass (.refl s) fun v turn => by cases turn; exact rests⟩
  · exact ⟨s, .refl s, .marked rfl nofun⟩
  · exact ⟨s, .refl s, .marked rfl nofun⟩
  · exact ⟨{ s with txUnit := u }, rfl, .stop u active⟩
  · exact ⟨{ s with txUnit := u }, rfl, .send u _ _ active⟩

theorem TxUnit.thrPending_iff {t : TxUnit} : t.thrPending = true ↔ t.thrRaw = true ∧ t.thrEna = true := by
  simp [TxUnit.thrPending]

theorem TxUnit.endPending_iff {t : TxUnit} : t.endPending = true ↔ t.endRaw = true ∧ t.endEna = true := by
  simp [TxUnit.endPending]

theorem serviceStep_effect {u : Fin 8} {s t : State} (h : serviceStep u s = .next t) : AgentEffect (.service u) s t := by
  obtain ⟨e, -⟩ | ⟨e, pending, -⟩ | ⟨e, -⟩ | ⟨e, pending, first⟩ := serviceStep_cases u s <;> cases h.symm.trans e
  · exact .pass (.refl s) nofun
  · obtain ⟨raised, enabled⟩ := TxUnit.thrPending_iff.mp pending
    exact .serveThr u raised enabled
  · exact .marked rfl nofun
  · obtain ⟨raised, enabled⟩ := TxUnit.endPending_iff.mp pending
    exact .serveEnd u raised enabled first

/-- A step is the effect of the agent whose turn it is, on a state like the one before. -/
theorem step_effect {s t : State} (h : step s = .next t) : ∃ s', s.Alike s' ∧ AgentEffect s.nextTurn s' t := by
  obtain ⟨program, turn, rfl⟩ | ⟨-, ⟨turn, h⟩ | ⟨u, turn, h⟩ | ⟨u, turn, h⟩⟩ := step_cases h <;> rw [turn]
  · exact ⟨s.takeTurn, s.alike_takeTurn, .reset program⟩
  · obtain ⟨s', like, effect⟩ := hostStep_effect h
    exact ⟨s', s.alike_takeTurn.trans like, effect⟩
  · obtain ⟨s', like, effect⟩ := unitStep_effect h
    exact ⟨s', s.alike_takeTurn.trans like, effect⟩
  · exact ⟨s.takeTurn, s.alike_takeTurn, serviceStep_effect h⟩

end Sys2Proof.Machine
end

section
/-! PROOFS. What every step keeps of the configuration (R27, R28, R32, R33, R43, R44, R50, R217). -/

namespace Sys2Proof.Machine

/-! ### Used units -/

theorem State.Configured.unitConfigured {s : State} (h : s.Configured) {i : Fin 8} (hi : i.val < s.chanCount) :
    s.UnitConfigured (s.unitOf i) i := by
  rw [h.unitOf_eq hi]
  obtain ⟨-, -, -, -, units, -⟩ := h
  exact units i hi

theorem State.Configured.used {s : State} (h : s.Configured) {i : Fin 8} (hi : i.val < s.chanCount) :
    (s.unit (s.unitOf i)).used = true := by
  obtain ⟨-, -, -, -, used, -⟩ := h.unitConfigured hi
  exact used

/-- A unit that is active or has an event enabled is used. -/
theorem State.ConfigInv.used {s : State} (hs : s.ConfigInv) {u : Fin 8}
    (h : (s.unit u).active = true ∨ (s.unit u).thrEna = true ∨ (s.unit u).endEna = true) : (s.unit u).used = true := by
  obtain ⟨done, inRange, unit⟩ := hs.chanOf h
  rw [← unit]
  exact (hs.1 done).used inRange

/-- A used unit serves a configured channel of an initialised engine. -/
theorem State.ConfigInv.exists_unitOf {s : State} (hs : s.ConfigInv) {u : Fin 8} (h : (s.unit u).used = true) :
    s.Configured ∧ ∃ i : Fin 8, i.val < s.chanCount ∧ s.unitOf i = u := by
  have ⟨after, before⟩ := hs
  cases done : s.initDone with
  | false =>
    obtain ⟨-, -, -, -, reset⟩ := before done
    rw [reset u] at h
    cases h
  | true =>
    have conf := after done
    obtain ⟨-, -, -, -, -, unused⟩ := after done
    refine ⟨conf, by_contra fun unserved => ?_⟩
    rw [unused u fun i hi e => unserved ⟨i, hi, (conf.unitOf_eq hi).trans e⟩] at h
    cases h

/-! ### Steps that keep the configuration -/

/-- `t` has the parameters, INIT_DONE, the sizes, the mapping and the GPIO identifiers of `s`. -/
def State.SameSetup (s t : State) : Prop :=
  t = { s with
    fault := t.fault, modelFault := t.modelFault, phase := t.phase, chans := t.chans, units := t.units, mem := t.mem
    txUnit := t.txUnit, hold := t.hold, program := t.program, reads := t.reads, schedule := t.schedule, choices := t.choices }

/-- `t` has the configuration of `s`: of a used unit only the run state and the record may differ, of an unused one nothing. -/
structure State.KeepsConfig (s t : State) : Prop where
  frame : s.SameSetup t
  unit : ∀ u, t.unit u = { s.unit u with
    active := (t.unit u).active, rdptr := (t.unit u).rdptr, cnt := (t.unit u).cnt
    thrRaw := (t.unit u).thrRaw, endRaw := (t.unit u).endRaw, wave := (t.unit u).wave }
  unused : ∀ u, (s.unit u).used = false → t.unit u = s.unit u

section
variable {s t : State} (h : s.KeepsConfig t)
include h

theorem State.KeepsConfig.initDone : t.initDone = s.initDone := by rw [h.frame]
theorem State.KeepsConfig.nch : t.nch = s.nch := by rw [h.frame]
theorem State.KeepsConfig.bpc : t.bpc = s.bpc := by rw [h.frame]
theorem State.KeepsConfig.wp : t.wp = s.wp := by rw [h.frame]
theorem State.KeepsConfig.map : t.map = s.map := by rw [h.frame]
theorem State.KeepsConfig.gpio : t.gpio = s.gpio := by rw [h.frame]

theorem State.KeepsConfig.unitConfigured {u i : Fin 8} (hu : s.UnitConfigured u i) : t.UnitConfigured u i := by
  unfold State.UnitConfigured
  rw [h.unit u, h.frame]
  exact hu

theorem State.KeepsConfig.configured (hs : s.Configured) : t.Configured := by
  obtain ⟨count, bpc, wp, map, units, rest⟩ := hs
  have count_eq : t.chanCount = s.chanCount := by rw [h.frame]; rfl
  unfold State.Configured
  rw [count_eq]
  refine ⟨count, ?_, ?_, ?_, fun i hi => h.unitConfigured (units i hi), fun u hu => ?_⟩
  · rw [h.bpc]
    exact bpc
  · rw [h.frame]
    exact wp
  · rw [h.frame]
    exact map
  · rw [h.unused u (by rw [rest u hu]; rfl), rest u hu]

theorem State.KeepsConfig.unconfigured (hs : s.Unconfigured) : t.Unconfigured := by
  obtain ⟨nch, bpc, wp, map, units⟩ := hs
  refine ⟨h.nch.trans nch, h.bpc.trans bpc, h.wp.trans wp, ?_, fun u => ?_⟩
  · rw [h.frame]
    exact map
  · rw [h.unused u (by rw [units u]; rfl), units u]

theorem State.KeepsConfig.configInv (hs : s.ConfigInv) : t.ConfigInv := by
  obtain ⟨after, before⟩ := hs
  exact ⟨fun done => h.configured (after (h.initDone ▸ done)), fun done => h.unconfigured (before (h.initDone ▸ done))⟩

end

/-- A step that leaves the units alone keeps the configuration if it keeps the rest of it. -/
theorem State.KeepsConfig.of_units {s t : State} (units : t.units = s.units) (frame : s.SameSetup t) : s.KeepsConfig t := by
  have unit : ∀ u, t.unit u = s.unit u := fun u => by unfold State.unit; rw [units]
  exact ⟨frame, fun u => by rw [unit u], fun u _ => unit u⟩

theorem State.Alike.keepsConfig {s t : State} (h : s.Alike t) : s.KeepsConfig t :=
  .of_units (by rw [h]) (by unfold State.SameSetup; rw [h])

/-- A step that changes the run state of one used unit keeps the configuration if it keeps the rest of it. -/
theorem State.KeepsConfig.of_unit {s t : State} {u : Fin 8} (used : (s.unit u).used = true)
    (frame : s.SameSetup t)
    (unit : t.unit u = { s.unit u with
      active := (t.unit u).active, rdptr := (t.unit u).rdptr, cnt := (t.unit u).cnt
      thrRaw := (t.unit u).thrRaw, endRaw := (t.unit u).endRaw, wave := (t.unit u).wave })
    (others : ∀ v, v ≠ u → t.unit v = s.unit v) : s.KeepsConfig t := by
  refine ⟨frame, fun v => ?_, fun v unused => others v fun e => ?_⟩
  · by_cases e : v = u
    · subst e; exact unit
    · rw [others v e]
  · rw [e, used] at unused
    cases unused

theorem State.keepsConfig_release (s : State) (ch : Fin 8) : s.KeepsConfig (s.release ch) := .of_units rfl rfl

theorem State.keepsConfig_awaitSignal (s : State) (ch : Fin 8) : s.KeepsConfig (s.awaitSignal ch) := by
  obtain ⟨e, -⟩ | ⟨e, -⟩ := s.awaitSignal_cases ch <;> rw [e]
  · exact s.keepsConfig_release ch
  · exact .of_units rfl rfl

theorem State.keepsConfig_primeAll (s : State) : s.KeepsConfig s.primeAll :=
  .of_units s.primeAll_units (by unfold State.SameSetup; rw [s.primeAll_frame])

/-- START launches the units of configured channels, which are used (R185). -/
theorem State.keepsConfig_startAll {s : State} (hs : s.Configured) : s.KeepsConfig s.startAll := by
  refine ⟨rfl, fun u => ?_, fun u unused => ?_⟩
  · rw [s.unit_startAll]
    split <;> rfl
  · rw [s.unit_startAll, if_neg]
    intro serves
    obtain ⟨i, hi, rfl⟩ := (s.serves_iff u).mp serves
    rw [hs.used hi] at unused
    cases unused

/-- A command keeps the configuration, or it is the INIT. -/
theorem CommandEffect.keepsConfig {s t : State} (h : CommandEffect s t) (hs : s.ConfigInv) :
    s.KeepsConfig t ∨ (s.initDone = false ∧ ∃ nch, legalConfig nch nch = true ∧ t = s.initialise nch) := by
  cases h with
  | init nch before legal => exact .inr ⟨before, nch, legal, rfl⟩
  | load => exact .inl (.of_units rfl rfl)
  | prime => exact .inl s.keepsConfig_primeAll
  | arm => exact .inl (.of_units rfl rfl)
  | start ready => exact .inl (State.keepsConfig_startAll (hs.1 ready.2))
  | wait ch => exact .inl (s.keepsConfig_awaitSignal ch)

/-- An agent's step keeps the configuration, or it is the INIT or a GPIO write before it, or the reset input. -/
theorem AgentEffect.keepsConfig {turn : Turn} {s t : State} (h : AgentEffect turn s t) (hs : s.ConfigInv) :
    s.KeepsConfig t ∨
    (s.initDone = false ∧ ((∃ nch, legalConfig nch nch = true ∧ t = s.initialise nch) ∨
      ∃ (i : Fin 8) (v : BitVec 8), t = { s with gpio := s.gpio.set i v })) ∨
    ∃ program, turn = .reset program ∧ t = s.restart program := by
  cases h with
  | pass alike | marked alike => exact .inl alike.keepsConfig
  | returned ch => exact .inl (s.keepsConfig_release ch)
  | gpio i v before => exact .inr (.inl ⟨before, .inr ⟨i, v, rfl⟩⟩)
  | frame => exact .inl (.of_units rfl rfl)
  | command effect =>
    obtain kept | ⟨before, init⟩ := effect.keepsConfig hs
    · exact .inl kept
    · exact .inr (.inl ⟨before, .inl init⟩)
  | stop u active | send u _ _ active =>
    exact .inl (.of_unit (hs.used (.inl active)) rfl (by simp [TxUnit.stop, TxUnit.sendData]) fun v e => by simp [e])
  | serveThr u _ enabled =>
    exact .inl (.of_unit (hs.used (.inr (.inl enabled))) rfl (by simp [State.unit_serveThr])
      fun v e => by simp [State.unit_serveThr, e])
  | serveEnd u _ enabled =>
    exact .inl (.of_unit (hs.used (.inr (.inr enabled))) rfl (by simp [State.unit_serveEnd])
      fun v e => by simp [State.unit_serveEnd, e])
  | reset program => exact .inr (.inr ⟨program, rfl, rfl⟩)

theorem State.configInv_resetWith (p : Params) : (State.resetWith p).ConfigInv :=
  ⟨nofun, fun _ => ⟨rfl, rfl, rfl, State.unitOf_resetWith p, State.unit_resetWith p⟩⟩

theorem State.configInv_restart (s : State) (program : List Access) : (s.restart program).ConfigInv :=
  State.configInv_resetWith s.cfg

theorem AgentEffect.configInv {turn : Turn} {s t : State} (h : AgentEffect turn s t) (hs : s.ConfigInv) : t.ConfigInv := by
  obtain kept | ⟨before, ⟨nch, legal, rfl⟩ | ⟨i, v, rfl⟩⟩ | ⟨program, -, rfl⟩ := h.keepsConfig hs
  · exact kept.configInv hs
  · exact ⟨fun _ => State.initialise_configured (hs.2 before) legal, nofun⟩
  · exact ⟨fun done => absurd (done.symm.trans before) nofun, hs.2⟩
  · exact s.configInv_restart program

/-- Settles O47: only INIT, GPIO writes before it and reset touch the configuration; every other effect keeps it. -/
theorem stepKeepsConfiguration : Obligations.StepKeepsConfiguration := by
  intro s t conf taken
  obtain ⟨s', like, effect⟩ := step_effect taken
  refine ⟨effect.configInv (like.configInv conf), fun done noReset => ?_⟩
  obtain kept | ⟨before, -⟩ | ⟨program, turn, -⟩ := effect.keepsConfig (like.configInv conf)
  · have kept_unit := kept.unit
    simp only [like.unit] at kept_unit
    refine ⟨kept.initDone.trans (like.initDone.trans done), ?_, ?_, ?_, ?_, ?_, kept_unit⟩
    · rw [kept.nch, like]
    · rw [kept.bpc, like]
    · rw [kept.wp, like]
    · rw [kept.map, like]
    · rw [kept.gpio, like]
  · rw [like.initDone, done] at before
    cases before
  · exact absurd turn (noReset program)

end Sys2Proof.Machine
end

section
/-! PROOFS. What every step keeps of the memories, and who writes the pulse memory (R52, R53, R71, R83). -/

namespace Sys2Proof.Machine

/-! ### The bounds of the memories -/

/-- A write of pulse words inside the pulse memory keeps the memory's bounds. -/
theorem State.MemInv.writeWords {s : State} (hs : s.MemInv) {w : Nat} {ws : List Word}
    (fits : w + ws.length ≤ s.cfg.pramWords) :
    ({ s with mem := Memory.writeWords s.mem (pramAddr w) ws } : State).MemInv := by
  obtain ⟨wf, bounds⟩ := hs
  refine ⟨Memory.writeWords_wf wf, fun x hx => ?_⟩
  rcases Memory.mem_writeWords hx with written | old
  · left
    simp only [pramAddr] at written ⊢
    omega
  · exact bounds x old

/-- A write of frame bytes inside the frame memory keeps the memory's bounds. -/
theorem State.MemInv.writeBytes {s : State} (hs : s.MemInv) {k : Nat} {bs : List Byte}
    (fits : frameAddr k + bs.length ≤ frameAddr s.cfg.frameBytes) :
    ({ s with mem := Memory.writeBytes s.mem (frameAddr k) bs } : State).MemInv := by
  obtain ⟨wf, bounds⟩ := hs
  refine ⟨Memory.writeBytes_wf wf, fun x hx => ?_⟩
  rcases Memory.mem_writeBytes hx with written | old
  · right
    simp only [frameAddr] at written fits ⊢
    omega
  · exact bounds x old

/-- The half a half-buffer write fills lies in the pulse memory (R76, R77, R150). -/
theorem State.Configured.copy_fits {s : State} (h : s.Configured) {i : Fin 8} (hi : i.val < s.chanCount) :
    s.copyBase i + (s.copyWords (s.chan i)).length ≤ s.cfg.pramWords := by
  have half := s.copyWords_length_le (s.chan i)
  have region := h.region_end hi
  unfold State.copyBase
  split <;> omega

theorem State.MemInv.copy {s : State} (hs : s.MemInv) (conf : s.Configured) {i : Fin 8} (hi : i.val < s.chanCount) :
    (s.copy i).MemInv :=
  hs.writeWords (conf.copy_fits hi)

theorem State.Configured.copy {s : State} (h : s.Configured) (i : Fin 8) : (s.copy i).Configured :=
  (State.KeepsConfig.of_units (t := s.copy i) rfl rfl).configured h

theorem State.MemInv.primeAll {s : State} (hs : s.MemInv) (conf : s.Configured) : s.primeAll.MemInv := by
  have kept := State.primeAll_keeps (s := s) (P := fun t => t.MemInv ∧ t.Configured ∧ t.chanCount = s.chanCount)
    ⟨hs, conf, rfl⟩
    (fun t i ⟨mem, conf, count⟩ hi => ⟨mem.copy conf (count ▸ hi), conf.copy i, count⟩) (fun _ h => h)
  exact kept.1

theorem State.memInv_awaitSignal {s : State} (hs : s.MemInv) (ch : Fin 8) : (s.awaitSignal ch).MemInv := by
  obtain ⟨e, -⟩ | ⟨e, -⟩ := s.awaitSignal_cases ch <;> (rw [e]; exact hs)

theorem CommandEffect.memInv {s t : State} (h : CommandEffect s t) (conf : s.ConfigInv) (hs : s.MemInv) : t.MemInv := by
  cases h with
  | init | load | arm | start => exact hs
  | prime ready => exact hs.primeAll (conf.1 ready.2)
  | wait ch => exact State.memInv_awaitSignal hs ch

theorem AgentEffect.memInv {turn : Turn} {s t : State} (h : AgentEffect turn s t) (conf : s.ConfigInv) (hs : s.MemInv) :
    t.MemInv := by
  cases h with
  | pass alike | marked alike => exact alike.memInv hs
  | returned | gpio | stop | send | serveEnd => exact hs
  | frame width k value fits => exact hs.writeBytes (by rwa [splitBytes_length])
  | command effect => exact effect.memInv conf hs
  | serveThr u _ enabled =>
    obtain ⟨done, inRange, -⟩ := conf.chanOf (.inr (.inl enabled))
    exact hs.copy (conf.1 done) inRange
  | reset => exact ⟨.nil, nofun⟩

/-- Settles O46: words are written inside a configured channel's region and bytes inside the frame memory. -/
theorem stepKeepsMemory : Obligations.StepKeepsMemory := by
  intro s t conf mem taken
  obtain ⟨s', like, effect⟩ := step_effect taken
  exact effect.memInv (like.configInv conf) (like.memInv mem)

/-! ### Who writes the pulse memory -/

/-- A command other than PRIME leaves the memory as it is. -/
theorem CommandEffect.mem {s t : State} (h : CommandEffect s t) : t.mem = s.mem ∨ (s.phase = .loaded ∧ t.phase = .primed) := by
  cases h with
  | init | load | arm | start => exact .inl rfl
  | prime _ phase => exact .inr ⟨phase, rfl⟩
  | wait ch => obtain ⟨e, -⟩ | ⟨e, -⟩ := s.awaitSignal_cases ch <;> exact .inl (by simp [e])

/-- Below the frame memory an agent's step writes only in a PRIME and in the service of a threshold event. -/
theorem AgentEffect.read_pram {turn : Turn} {s t : State} (h : AgentEffect turn s t)
    (noReset : ∀ program, turn ≠ .reset program) {a : Nat} (ha : a < frameAddr 0) :
    Memory.read t.mem a = Memory.read s.mem a ∨
    (turn = .host ∧ s.phase = .loaded ∧ t.phase = .primed) ∨
    ∃ u, turn = .service u ∧ (s.unit u).thrRaw = true ∧ (s.unit u).thrEna = true := by
  cases h with
  | pass alike | marked alike => exact .inl (by rw [alike.mem])
  | returned | gpio | stop | send | serveEnd => exact .inl rfl
  | frame width k value =>
    refine .inl ?_
    rw [Memory.read_writeBytes, if_neg]
    unfold frameAddr at *
    omega
  | command effect =>
    obtain same | phases := effect.mem
    · exact .inl (by rw [same])
    · exact .inr (.inl ⟨rfl, phases⟩)
  | serveThr u raised enabled => exact .inr (.inr ⟨u, rfl, raised, enabled⟩)
  | reset program => exact absurd rfl (noReset program)

/-- Settles O54: of the effects that write memory, a frame write stays above and the others are the two named. -/
theorem onlyCopiesWritePulseMemory : Obligations.OnlyCopiesWritePulseMemory := by
  intro s t taken noReset a ha changed
  obtain ⟨s', like, effect⟩ := step_effect taken
  have writer := effect.read_pram noReset ha
  rw [like.mem, like.phase] at writer
  simp only [like.unit] at writer
  exact writer.resolve_left changed

end Sys2Proof.Machine
end

section
/-! PROOFS. What every step keeps of the channels' read positions, of the units' pointers and of the output records (R35, R36, R45,
R47). -/

namespace Sys2Proof.Machine

/-! ### Read positions and buffers -/

/-- POS <= LEN <= 3 * MAX_PIXELS for one channel. -/
abbrev Chan.Bounded (c : Chan) (p : Params) : Prop := c.pos.toNat ≤ c.len ∧ c.len ≤ 3 * p.raw.maxPixels

/-- A half-buffer write advances POS at most to LEN (R150). -/
theorem State.copiedChan_pos_le (s : State) {c : Chan} (h : c.pos.toNat ≤ c.len) :
    (s.copiedChan c).pos.toNat ≤ (s.copiedChan c).len := by
  unfold State.copiedChan Chan.len at *
  dsimp only
  split
  · have := BitVec.toNat_ofNat (c.pos.toNat + s.copyCount c) 18
    have := Nat.mod_le (c.pos.toNat + s.copyCount c) (2 ^ 18)
    have : s.copyCount c ≤ c.enc.length - c.pos.toNat := Nat.min_le_right _ _
    omega
  · exact h

/-- A change of configured channels that keeps each one's bounds keeps the channel invariant. -/
theorem State.ChanInv.of_configured {s t : State} (hs : s.ChanInv) (cfg : t.cfg = s.cfg) (count : t.chanCount = s.chanCount)
    (bounded : ∀ i : Fin 8, i.val < s.chanCount → (s.chan i).Bounded s.cfg → (t.chan i).Bounded s.cfg)
    (others : ∀ i : Fin 8, s.chanCount ≤ i.val → t.chan i = s.chan i) : t.ChanInv := by
  intro i
  rw [cfg, count]
  obtain ⟨pos, len, unconfigured⟩ := hs i
  by_cases hi : i.val < s.chanCount
  · obtain ⟨pos', len'⟩ := bounded i hi ⟨pos, len⟩
    exact ⟨pos', len', fun le => absurd hi (by omega)⟩
  · rw [others i (by omega)]
    exact ⟨pos, len, unconfigured⟩

/-- The same for a change of one configured channel. -/
theorem State.ChanInv.of_chan {s t : State} (hs : s.ChanInv) (cfg : t.cfg = s.cfg) (count : t.chanCount = s.chanCount)
    {j : Fin 8} (hj : j.val < s.chanCount) {f : Chan → Chan} (chan : ∀ i, t.chan i = if i = j then f (s.chan i) else s.chan i)
    (bounded : ∀ c : Chan, c.Bounded s.cfg → (f c).Bounded s.cfg) : t.ChanInv := by
  refine hs.of_configured cfg count (fun i _ h => ?_) (fun i hi => ?_)
  · rw [chan i]
    split
    · exact bounded _ h
    · exact h
  · rw [chan i, if_neg]
    rintro rfl
    omega

theorem State.ChanInv.copy {s : State} (hs : s.ChanInv) {i : Fin 8} (hi : i.val < s.chanCount) : (s.copy i).ChanInv :=
  hs.of_chan rfl rfl hi (s.chan_copy i) fun _ ⟨pos, len⟩ => ⟨s.copiedChan_pos_le pos, len⟩

theorem State.ChanInv.primeAll {s : State} (hs : s.ChanInv) : s.primeAll.ChanInv := by
  have kept := State.primeAll_keeps (s := s) (P := fun t => t.ChanInv ∧ t.chanCount = s.chanCount) ⟨hs, rfl⟩
    (fun t i ⟨chans, count⟩ hi => ⟨chans.copy (count ▸ hi), count⟩) (fun _ h => h)
  exact kept.1

theorem State.ChanInv.release {s : State} (hs : s.ChanInv) {ch : Fin 8} (hch : ch.val < s.chanCount) :
    (s.release ch).ChanInv :=
  hs.of_chan rfl rfl hch (s.chan_release ch) fun _ h => h

theorem State.ChanInv.loadFrame {s : State} (hs : s.ChanInv) {pixels : Nat} {frame : List Byte}
    (fits : pixels ≤ s.cfg.raw.maxPixels) (length : frame.length = 3 * pixels) : (s.loadFrame pixels frame).ChanInv := by
  refine hs.of_configured rfl rfl (fun i hi _ => ?_) (fun i hi => ?_)
  · rw [s.chan_loadFrame, if_pos hi]
    have := chanBytes_length_le frame pixels s.chanCount i.val
    exact ⟨Nat.zero_le _, by simp only [Chan.loadBuffer, Chan.len]; omega⟩
  · rw [s.chan_loadFrame, if_neg (by omega)]

/-- Before INIT no channel is configured, so all are as after reset, and INIT leaves them so. -/
theorem State.ChanInv.initialise {s : State} (hs : s.ChanInv) (before : s.Unconfigured) (n : BitVec 4) :
    (s.initialise n).ChanInv := by
  intro i
  obtain ⟨nch, -⟩ := before
  obtain ⟨pos, len, reset⟩ := hs i
  exact ⟨pos, len, fun _ => reset (by simp [State.chanCount, nch])⟩

theorem CommandEffect.chanInv {s t : State} (h : CommandEffect s t) (conf : s.ConfigInv) (hs : s.ChanInv) : t.ChanInv := by
  cases h with
  | init nch before => exact hs.initialise (conf.2 before) nch
  | load pixels frame _ _ fits bytes =>
    obtain ⟨length, -⟩ := (Memory.readBytes_eq_some_iff _ _ _ _).mp bytes
    exact hs.loadFrame fits length
  | prime => exact hs.primeAll
  | arm =>
    refine hs.of_configured rfl rfl (fun i hi h => ?_) (fun i hi => ?_)
    · rw [s.chan_armAll, if_pos hi]
      exact h
    · rw [s.chan_armAll, if_neg (by omega)]
  | start =>
    refine hs.of_configured rfl rfl (fun i hi h => ?_) (fun i hi => ?_)
    · rw [s.chan_startAll, if_pos hi]
      exact h
    · rw [s.chan_startAll, if_neg (by omega)]
  | wait ch _ _ inRange =>
    obtain ⟨e, -⟩ | ⟨e, -⟩ := s.awaitSignal_cases ch <;> rw [e]
    · exact hs.release inRange
    · exact hs

theorem AgentEffect.chanInv {turn : Turn} {s t : State} (h : AgentEffect turn s t) (conf : s.ConfigInv) (life : s.LifeInv)
    (hs : s.ChanInv) : t.ChanInv := by
  cases h with
  | pass alike | marked alike => exact alike.chanInv hs
  | returned ch held =>
    obtain ⟨-, -, -, hold⟩ := life
    obtain ⟨-, inRange, -⟩ := hold ch held
    exact hs.release inRange
  | gpio | frame | stop | send => exact hs
  | command effect => exact effect.chanInv conf hs
  | serveThr u _ enabled =>
    obtain ⟨-, inRange, -⟩ := conf.chanOf (.inr (.inl enabled))
    exact hs.copy inRange
  | serveEnd u _ enabled =>
    obtain ⟨-, inRange, -⟩ := conf.chanOf (.inr (.inr enabled))
    exact hs.of_chan rfl rfl inRange (s.chan_serveEnd u) fun _ h => h
  | reset => exact fun i => by simp [State.restart, Chan.reset, Chan.len]

/-- Settles O48: LOAD fits the buffers to the frame, a half-buffer write stops at LEN, and no other effect moves either. -/
theorem stepKeepsChannelBounds : Obligations.StepKeepsChannelBounds := by
  intro s t conf life chans taken
  obtain ⟨s', like, effect⟩ := step_effect taken
  exact effect.chanInv (like.configInv conf) (like.lifeInv life) (like.chanInv chans)

/-! ### Pointers -/

/-- RDPTR in a region of `region` words, CNT below the limit. -/
abbrev TxUnit.InRegion (t : TxUnit) (region : Nat) : Prop := t.rdptr.toNat < region ∧ t.cnt.toNat < t.txLim.toNat

theorem TxUnit.InRegion.sendData {t : TxUnit} {region : Nat} (h : t.InRegion region) (first second : WavePhase) :
    (t.sendData region first second).InRegion region := by
  obtain ⟨rdptr, cnt⟩ := h
  constructor
  · have wrapped := Nat.mod_lt (t.rdptr.toNat + 1) (show 0 < region by omega)
    exact Nat.lt_of_le_of_lt (Nat.mod_le _ _) wrapped
  · simp only [TxUnit.sendData]
    split
    · exact Nat.lt_of_le_of_lt (Nat.zero_le _) cnt
    · exact Nat.lt_of_le_of_lt (Nat.mod_le _ _) (by omega)

theorem TxUnit.InRegion.launch {t : TxUnit} {region : Nat} (h : t.InRegion region) : t.launch.InRegion region :=
  ⟨Nat.lt_of_le_of_lt (Nat.zero_le _) h.1, Nat.lt_of_le_of_lt (Nat.zero_le _) h.2⟩

/-- A unit as INIT leaves it: at the top of a region that is not empty (R181). -/
theorem State.pointerInv_initialise {s : State} (before : s.Unconfigured) {nch : BitVec 4}
    (legal : legalConfig nch nch = true) : (s.initialise nch).PointerInv := by
  intro u used
  have conf := State.initialise_configured before legal
  have inv : (s.initialise nch).ConfigInv := ⟨fun _ => conf, nofun⟩
  obtain ⟨-, i, hi, rfl⟩ := inv.exists_unitOf used
  have at_top : ((s.initialise nch).unit ((s.initialise nch).unitOf i)).rdptr = 0#12 ∧
      ((s.initialise nch).unit ((s.initialise nch).unitOf i)).cnt = 0#12 := by
    obtain ⟨-, -, -, -, reset⟩ := before
    rw [s.unit_initialise, reset]
    split <;> exact ⟨rfl, rfl⟩
  obtain ⟨-, -, -, -, -, -, -, txLim, -⟩ := conf.unitConfigured hi
  have := conf.wp_pos
  rw [conf.regionWords_eq hi, txLim, at_top.1, at_top.2]
  constructor
  · simp only [BitVec.toNat_ofNat, Nat.zero_mod]
    omega
  · simpa using this

/-- A change of the units that keeps each one's size and whether it is used, and leaves its pointers in bounds. -/
theorem State.PointerInv.of_units {s t : State} (hs : s.PointerInv) (cfg : t.cfg = s.cfg)
    (unit : ∀ u, (t.unit u).used = (s.unit u).used ∧ (t.unit u).memSize = (s.unit u).memSize ∧
      ((s.unit u).InRegion (s.regionWords u) → (t.unit u).InRegion (s.regionWords u))) : t.PointerInv := by
  intro u used
  obtain ⟨same, size, kept⟩ := unit u
  have region : t.regionWords u = s.regionWords u := by rw [State.regionWords, cfg, size, State.regionWords]
  rw [region]
  exact kept (hs u (same ▸ used))

/-- The same for a change of one unit. -/
theorem State.PointerInv.of_unit {s t : State} (hs : s.PointerInv) (cfg : t.cfg = s.cfg) {u : Fin 8} {f : TxUnit → TxUnit}
    (unit : ∀ v, t.unit v = if v = u then f (s.unit v) else s.unit v)
    (same : (f (s.unit u)).used = (s.unit u).used ∧ (f (s.unit u)).memSize = (s.unit u).memSize)
    (kept : (s.unit u).InRegion (s.regionWords u) → (f (s.unit u)).InRegion (s.regionWords u)) : t.PointerInv := by
  refine hs.of_units cfg fun v => ?_
  rw [unit v]
  split
  · subst v
    exact ⟨same.1, same.2, kept⟩
  · exact ⟨rfl, rfl, id⟩

theorem State.PointerInv.startAll {s : State} (hs : s.PointerInv) : s.startAll.PointerInv := by
  refine hs.of_units rfl fun u => ?_
  rw [s.unit_startAll]
  split
  · exact ⟨rfl, rfl, TxUnit.InRegion.launch⟩
  · exact ⟨rfl, rfl, id⟩

theorem State.PointerInv.primeAll {s : State} (hs : s.PointerInv) : s.primeAll.PointerInv := by
  rw [s.primeAll_frame]
  exact hs

theorem CommandEffect.pointerInv {s t : State} (h : CommandEffect s t) (conf : s.ConfigInv) (hs : s.PointerInv) :
    t.PointerInv := by
  cases h with
  | init nch before legal => exact State.pointerInv_initialise (conf.2 before) legal
  | load | arm => exact hs
  | prime => exact hs.primeAll
  | start => exact hs.startAll
  | wait ch => obtain ⟨e, -⟩ | ⟨e, -⟩ := s.awaitSignal_cases ch <;> (rw [e]; exact hs)

theorem AgentEffect.pointerInv {turn : Turn} {s t : State} (h : AgentEffect turn s t) (conf : s.ConfigInv)
    (hs : s.PointerInv) : t.PointerInv := by
  cases h with
  | pass alike | marked alike => exact alike.pointerInv hs
  | returned | gpio | frame => exact hs
  | command effect => exact effect.pointerInv conf hs
  | stop u => exact hs.of_unit rfl (s.unit_updUnit u _) ⟨rfl, rfl⟩ id
  | send u first second =>
    exact hs.of_unit (f := fun t => t.sendData (s.regionWords u) first second) rfl (s.unit_updUnit u _) ⟨rfl, rfl⟩
      fun h => h.sendData first second
  | serveThr u => exact hs.of_unit (f := fun t => { t with thrRaw := false }) rfl (s.unit_serveThr u) ⟨rfl, rfl⟩ id
  | serveEnd u => exact hs.of_unit (f := fun t => { t with endRaw := false }) rfl (s.unit_serveEnd u) ⟨rfl, rfl⟩ id
  | reset => exact fun u used => by simp [State.restart, TxUnit.reset] at used

/-- Settles O49: a DATA word wraps both pointers, START sets both to 0, and no other effect moves them. -/
theorem stepKeepsPointers : Obligations.StepKeepsPointers := by
  intro s t conf pointers taken
  obtain ⟨s', like, effect⟩ := step_effect taken
  exact effect.pointerInv (like.configInv conf) (like.pointerInv pointers)

/-! ### Output records -/

theorem CommandEffect.wave {s t : State} (h : CommandEffect s t) (v : Fin 8) : (t.unit v).wave = (s.unit v).wave := by
  cases h with
  | init nch => rw [s.unit_initialise]; split <;> rfl
  | load | arm => rfl
  | prime => rw [s.primeAll_unit]
  | start => rw [s.unit_startAll]; split <;> rfl
  | wait ch => obtain ⟨e, -⟩ | ⟨e, -⟩ := s.awaitSignal_cases ch <;> (rw [e]; rfl)

/-- Only a DATA word appends to a record, the record of the unit that executes it. -/
theorem AgentEffect.wave {turn : Turn} {s t : State} (h : AgentEffect turn s t)
    (noReset : ∀ program, turn ≠ .reset program) (v : Fin 8) :
    (t.unit v).wave = (s.unit v).wave ∨ (turn = .unit v ∧ ∃ phases, (t.unit v).wave = (s.unit v).wave ++ phases) := by
  cases h with
  | pass alike | marked alike => exact .inl (by rw [alike.unit])
  | returned | gpio | frame => exact .inl rfl
  | command effect => exact .inl (effect.wave v)
  | stop u => exact .inl (by rw [s.unit_updUnit]; split <;> rfl)
  | serveThr u => exact .inl (by rw [s.unit_serveThr]; split <;> rfl)
  | serveEnd u => exact .inl (by rw [s.unit_serveEnd]; split <;> rfl)
  | send u first second =>
    rw [s.unit_updUnit]
    split
    · subst v
      exact .inr ⟨rfl, [first, second], rfl⟩
    · exact .inl rfl
  | reset program => exact absurd rfl (noReset program)

/-- Settles O52: an unchanged record is the old one with nothing appended. -/
theorem onlyUnitsAppendToWaves : Obligations.OnlyUnitsAppendToWaves := by
  intro s t taken noReset v
  obtain ⟨s', like, effect⟩ := step_effect taken
  obtain same | ⟨turn, appended⟩ := effect.wave noReset v
  · rw [like.unit] at same
    exact ⟨⟨[], by rw [same, List.append_nil]⟩, fun _ => same⟩
  · rw [like.unit] at appended
    exact ⟨appended, fun other => absurd turn other⟩

end Sys2Proof.Machine
end

section
/-! PROOFS. What every step keeps of the life of a channel in a render (R30, R39 to R41, R46, R184, R186, R216). -/

namespace Sys2Proof.Machine

/-! ### One channel and its unit in a running render -/

section
variable {c : Chan} {t : TxUnit} (h : c.Running t)
include h

theorem Chan.Running.stop (active : t.active = true) : c.Running t.stop := by
  obtain ⟨flying, -, endRaw⟩ | ⟨-, rest, -⟩ | ⟨-, rest, -⟩ | ⟨-, rest, -⟩ := h
  · exact .inr (.inl ⟨flying, rfl, rfl⟩)
  all_goals exact absurd (active.symm.trans rest) nofun

theorem Chan.Running.send (active : t.active = true) (region : Nat) (first second : WavePhase) :
    c.Running (t.sendData region first second) := by
  obtain ⟨flying, -, endRaw⟩ | ⟨-, rest, -⟩ | ⟨-, rest, -⟩ | ⟨-, rest, -⟩ := h
  · exact .inl ⟨flying, active, endRaw⟩
  all_goals exact absurd (active.symm.trans rest) nofun

theorem Chan.Running.refill (s : State) : (s.copiedChan c).Running { t with thrRaw := false } := by
  obtain ⟨flying, active, endRaw⟩ | ⟨flying, active, endRaw⟩ | ⟨waiting, active, -, endRaw⟩ | ⟨free, active, -, endRaw⟩ := h
  · exact .inl ⟨flying, active, endRaw⟩
  · exact .inr (.inl ⟨flying, active, endRaw⟩)
  · exact .inr (.inr (.inl ⟨waiting, active, rfl, endRaw⟩))
  · exact .inr (.inr (.inr ⟨free, active, rfl, endRaw⟩))

theorem Chan.Running.complete (endRaw : t.endRaw = true) (thrRaw : t.thrRaw = false) :
    c.complete.Running { t with endRaw := false } := by
  obtain ⟨-, -, clear⟩ | ⟨⟨valid, -⟩, active, -⟩ | ⟨-, -, -, clear⟩ | ⟨-, -, -, clear⟩ := h
  case inr.inl => exact .inr (.inr (.inl ⟨⟨valid, rfl, rfl⟩, active, thrRaw, rfl⟩))
  all_goals exact absurd (endRaw.symm.trans clear) nofun

theorem Chan.Running.release (given : c.sig = .set) : c.release.Running t := by
  obtain ⟨⟨-, -, sig⟩, -⟩ | ⟨⟨-, -, sig⟩, -⟩ | ⟨⟨-, inFlight, -⟩, quiet⟩ | ⟨⟨-, -, sig⟩, -⟩ := h
  case inr.inr.inl => exact .inr (.inr (.inr ⟨⟨rfl, inFlight, rfl⟩, quiet⟩))
  all_goals exact absurd (given.symm.trans sig) nofun

/-- A channel whose buffer is freed is free, its unit at rest. -/
theorem Chan.Running.free (freed : c.bufValid = false) : c.Free ∧ t.Quiet := by
  obtain ⟨⟨valid, -⟩, -⟩ | ⟨⟨valid, -⟩, -⟩ | ⟨⟨valid, -⟩, -⟩ | free := h
  case inr.inr.inr => exact free
  all_goals exact absurd (freed.symm.trans valid) nofun

end

/-- Outside a running render every configured channel's unit is at rest. -/
theorem RenderPhase.admits_quiet {p : RenderPhase} {c : Chan} {t : TxUnit} (h : p.admits c t = true) (hp : p ≠ .running) :
    t.Quiet := by
  cases p with
  | idle => exact (admits_idle.mp h).2
  | loaded => exact (admits_loaded.mp h).2.2
  | primed => exact (admits_primed.mp h).2
  | armed => exact (admits_armed.mp h).2
  | running => exact absurd rfl hp

/-- A unit of a configured channel that is not at rest sends, or has sent, in a running render. -/
theorem State.LifeInv.running_of_busy {s : State} (hs : s.LifeInv) {i : Fin 8} (hi : i.val < s.chanCount)
    (busy : ¬ (s.unit (s.unitOf i)).Quiet) : s.phase = .running ∧ (s.chan i).Running (s.unit (s.unitOf i)) := by
  obtain ⟨-, admits, -, -⟩ := hs
  have here := admits i hi
  have running : s.phase = .running := by_contra fun other => busy (RenderPhase.admits_quiet here other)
  rw [running] at here
  exact ⟨running, RenderPhase.admits_running.mp here⟩

/-- The host is held only in a running render. -/
theorem State.LifeInv.hold_eq_none {s : State} (hs : s.LifeInv) (hp : s.phase ≠ .running) : s.hold = none := by
  obtain ⟨-, -, -, held⟩ := hs
  cases hold : s.hold with
  | none => rfl
  | some ch => exact absurd (held ch hold).1 hp

/-! ### Steps inside a running render -/

/-- Unit `u` serves a configured channel of a running render. -/
structure State.InRender (s : State) (u : Fin 8) : Prop where
  configured : s.Configured
  running : s.phase = .running
  inRange : (s.chanOf u).val < s.chanCount
  unitOf : s.unitOf (s.chanOf u) = u
  life : (s.chan (s.chanOf u)).Running (s.unit u)

theorem State.LifeInv.inRender {s : State} (hs : s.LifeInv) (conf : s.ConfigInv) {u : Fin 8}
    (used : (s.unit u).used = true) (busy : ¬ (s.unit u).Quiet) : s.InRender u := by
  obtain ⟨configured, i, hi, rfl⟩ := conf.exists_unitOf used
  obtain ⟨running, life⟩ := hs.running_of_busy hi busy
  have served := configured.chanOf_unitOf hi
  exact ⟨configured, running, by rwa [served], by rw [served], by rwa [served]⟩

section
variable {s : State} (hs : s.LifeInv) (conf : s.ConfigInv) {u : Fin 8}
include hs conf

theorem State.LifeInv.inRender_of_active (active : (s.unit u).active = true) : s.InRender u :=
  hs.inRender conf (conf.used (.inl active)) fun ⟨rest, _⟩ => absurd (active.symm.trans rest) nofun

theorem State.LifeInv.inRender_of_thr (raised : (s.unit u).thrRaw = true) (enabled : (s.unit u).thrEna = true) :
    s.InRender u :=
  hs.inRender conf (conf.used (.inr (.inl enabled))) fun ⟨_, clear, _⟩ => absurd (raised.symm.trans clear) nofun

theorem State.LifeInv.inRender_of_end (raised : (s.unit u).endRaw = true) (enabled : (s.unit u).endEna = true) :
    s.InRender u :=
  hs.inRender conf (conf.used (.inr (.inr enabled))) fun ⟨_, _, clear⟩ => absurd (raised.symm.trans clear) nofun

end

/-- Another channel of a running render has another unit. -/
theorem State.InRender.unitOf_ne {s : State} {u : Fin 8} (r : s.InRender u) {i : Fin 8} (hi : i.val < s.chanCount)
    (h : i ≠ s.chanOf u) : s.unitOf i ≠ u := by
  rintro rfl
  exact h (r.configured.chanOf_unitOf hi).symm

/-- In a running render, a change of one unit and its channel that leaves them in a running render, and the buffer as it is, keeps
the life invariant. -/
theorem State.LifeInv.of_unit {s t : State} (hs : s.LifeInv) {u : Fin 8} (r : s.InRender u) {f : Chan → Chan}
    {g : TxUnit → TxUnit} (frame : t = { s with chans := t.chans, units := t.units, mem := t.mem })
    (chan : ∀ i, t.chan i = if i = s.chanOf u then f (s.chan i) else s.chan i)
    (unit : ∀ v, t.unit v = if v = u then g (s.unit v) else s.unit v)
    (life : (f (s.chan (s.chanOf u))).Running (g (s.unit u)))
    (valid : ∀ c, (f c).bufValid = c.bufValid) : t.LifeInv := by
  obtain ⟨idle, admits, exists_valid, held⟩ := hs
  have count : t.chanCount = s.chanCount := by rw [frame]; rfl
  have phase : t.phase = s.phase := by rw [frame]
  have initDone : t.initDone = s.initDone := by rw [frame]
  have hold : t.hold = s.hold := by rw [frame]
  have unitOf : ∀ i, t.unitOf i = s.unitOf i := fun i => by rw [frame]; rfl
  have bufValid : ∀ i, (t.chan i).bufValid = (s.chan i).bufValid := fun i => by
    rw [chan i]
    split
    · exact valid _
    · rfl
  unfold State.LifeInv
  simp only [count, phase, initDone, hold, unitOf, bufValid]
  refine ⟨idle, fun i hi => ?_, exists_valid, held⟩
  rw [chan i, unit]
  by_cases e : i = s.chanOf u
  · subst e
    rw [r.running, r.unitOf, if_pos rfl, if_pos rfl]
    exact RenderPhase.admits_running.mpr life
  · rw [if_neg e, if_neg (r.unitOf_ne hi e)]
    exact admits i hi

/-- A WAIT whose signal is given leaves its channel free; the last one ends the render (R186). -/
theorem State.LifeInv.release {s : State} (hs : s.LifeInv) (running : s.phase = .running) {ch : Fin 8}
    (given : (s.chan ch).sig = .set) : (s.release ch).LifeInv := by
  obtain ⟨idle, admits, -, -⟩ := hs
  have done : s.initDone ≠ false := fun before => absurd (running.symm.trans (idle before)) nofun
  have life : ∀ i : Fin 8, i.val < s.chanCount → ((s.release ch).chan i).Running (s.unit (s.unitOf i)) := fun i hi => by
    have here := admits i hi
    rw [running] at here
    rw [s.chan_release]
    split
    · subst i
      exact (RenderPhase.admits_running.mp here).release given
    · exact RenderPhase.admits_running.mp here
  by_cases released : (s.updChan ch Chan.release).allReleased = true
  · have phase : (s.release ch).phase = .idle := by rw [s.release_phase, if_pos released]
    refine ⟨fun _ => phase, fun i hi => ?_, fun h => absurd (phase.symm.trans h) nofun, nofun⟩
    rw [phase]
    exact RenderPhase.admits_idle.mpr ((life i hi).free ((State.allReleased_iff _).mp released i hi))
  · have phase : (s.release ch).phase = .running := by rw [s.release_phase, if_neg released, running]
    refine ⟨fun before => absurd before done, fun i hi => ?_, fun _ => ?_, nofun⟩
    · rw [phase]
      exact RenderPhase.admits_running.mpr (life i hi)
    · rw [State.allReleased_iff] at released
      push Not at released
      obtain ⟨i, hi, valid⟩ := released
      exact ⟨i, hi, by simpa using valid⟩

/-! ### Commands -/

/-- A command that takes the render to another phase, in which a channel stands as that phase has it. -/
theorem State.LifeInv.of_phase {t : State} (done : t.initDone = true) (hold : t.hold = none)
    (admits : ∀ i : Fin 8, i.val < t.chanCount → t.phase.admits (t.chan i) (t.unit (t.unitOf i)) = true)
    (valid : t.phase = .running → ∃ i : Fin 8, i.val < t.chanCount ∧ (t.chan i).bufValid = true) : t.LifeInv :=
  ⟨fun before => absurd (done.symm.trans before) nofun, admits, valid, fun _ held => absurd (hold.symm.trans held) nofun⟩

/-- Before INIT no channel has a buffer and no unit runs, and INIT leaves them so. -/
theorem State.LifeInv.initialise {s : State} (hs : s.LifeInv) (chans : s.ChanInv) (before : s.initDone = false)
    (conf : s.Unconfigured) (nch : BitVec 4) : (s.initialise nch).LifeInv := by
  have idle : s.phase = .idle := hs.1 before
  have hold : s.hold = none := hs.hold_eq_none (by rw [idle]; nofun)
  obtain ⟨count, -, -, -, units⟩ := conf
  refine .of_phase rfl hold (fun i _ => ?_) fun h => absurd (idle.symm.trans h) nofun
  obtain ⟨-, -, reset⟩ := chans i
  rw [State.initialise_phase, idle, s.initialise_chan, reset (by simp [State.chanCount, count]), s.unit_initialise, units]
  refine RenderPhase.admits_idle.mpr ⟨⟨rfl, rfl, rfl⟩, ?_⟩
  split <;> exact ⟨rfl, rfl, rfl⟩

/-- A half-buffer write leaves BUF_VALID, IN_FLIGHT and SIG. -/
theorem State.waiting_primeAll {s : State} {sig : Signal} {i : Fin 8} (h : (s.chan i).Waiting sig) :
    (s.primeAll.chan i).Waiting sig :=
  State.primeAll_keeps (P := fun t => (t.chan i).Waiting sig) h
    (fun t j ht _ => by rw [t.chan_copy]; split <;> exact ht) fun _ ht => ht

theorem State.Configured.chanCount_pos {s : State} (h : s.Configured) : 0 < s.chanCount := by
  rcases h.1 with e | e | e | e <;> omega

theorem State.LifeInv.startAll {s : State} (hs : s.LifeInv) (ready : s.Ready) (conf : s.Configured) (phase : s.phase = .armed) :
    s.startAll.LifeInv := by
  have ⟨_, admits, _, _⟩ := hs
  rw [phase] at admits
  have flying : ∀ i : Fin 8, i.val < s.chanCount → (s.startAll.chan i).Flying := fun i hi => by
    obtain ⟨⟨valid, -, sig⟩, -⟩ := RenderPhase.admits_armed.mp (admits i hi)
    rw [s.chan_startAll, if_pos hi]
    exact ⟨valid, rfl, sig⟩
  refine .of_phase ready.2 (hs.hold_eq_none (by rw [phase]; nofun)) (fun i hi => ?_) fun _ => ?_
  · rw [s.startAll_unitOf, s.unit_startAll, if_pos ((s.serves_iff _).mpr ⟨i, hi, rfl⟩)]
    exact RenderPhase.admits_running.mpr (.inl ⟨flying i hi, rfl, rfl⟩)
  · exact ⟨0, conf.chanCount_pos, (flying 0 conf.chanCount_pos).1⟩

theorem CommandEffect.lifeInv {s t : State} (h : CommandEffect s t) (conf : s.ConfigInv) (chans : s.ChanInv)
    (hs : s.LifeInv) : t.LifeInv := by
  have ⟨_, admits, exists_valid, _⟩ := hs
  cases h with
  | init nch before => exact hs.initialise chans before (conf.2 before) nch
  | load pixels frame ready phase =>
    rw [phase] at admits
    refine .of_phase ready.2 (hs.hold_eq_none (by rw [phase]; nofun)) (fun i (hi : i.val < s.chanCount) => ?_) nofun
    obtain ⟨⟨-, inFlight, sig⟩, quiet⟩ := RenderPhase.admits_idle.mp (admits i hi)
    rw [s.chan_loadFrame, if_pos hi]
    exact RenderPhase.admits_loaded.mpr ⟨⟨rfl, inFlight, sig⟩, ⟨rfl, rfl, rfl⟩, quiet⟩
  | prime ready phase =>
    rw [phase] at admits
    refine .of_phase (s.primeAll_initDone.trans ready.2) (s.primeAll_hold.trans (hs.hold_eq_none (by rw [phase]; nofun)))
      (fun i hi => ?_) nofun
    rw [State.chanCount, s.primeAll_nch] at hi
    obtain ⟨waiting, -, quiet⟩ := RenderPhase.admits_loaded.mp (admits i hi)
    rw [s.primeAll_unit, s.primeAll_unitOf]
    exact RenderPhase.admits_primed.mpr ⟨State.waiting_primeAll waiting, quiet⟩
  | arm ready phase =>
    rw [phase] at admits
    refine .of_phase ready.2 (hs.hold_eq_none (by rw [phase]; nofun)) (fun i (hi : i.val < s.chanCount) => ?_) nofun
    obtain ⟨⟨valid, inFlight, -⟩, quiet⟩ := RenderPhase.admits_primed.mp (admits i hi)
    rw [s.chan_armAll, if_pos hi]
    exact RenderPhase.admits_armed.mpr ⟨⟨valid, inFlight, rfl⟩, quiet⟩
  | start ready phase => exact hs.startAll ready (conf.1 ready.2) phase
  | wait ch ready phase inRange valid =>
    obtain ⟨e, given⟩ | ⟨e, -⟩ := s.awaitSignal_cases ch <;> rw [e]
    · exact hs.release phase given
    · refine ⟨hs.1, admits, exists_valid, fun ch' held => ?_⟩
      cases held
      exact ⟨phase, inRange, valid⟩

/-! ### Steps of all agents -/

theorem AgentEffect.lifeInv {turn : Turn} {s t : State} (h : AgentEffect turn s t) (conf : s.ConfigInv) (chans : s.ChanInv)
    (hs : s.LifeInv) : t.LifeInv := by
  cases h with
  | pass alike | marked alike => exact alike.lifeInv hs
  | gpio | frame => exact hs
  | returned ch held given =>
    have ⟨_, _, _, hold⟩ := hs
    exact hs.release (hold ch held).1 given
  | command effect => exact effect.lifeInv conf chans hs
  | stop u active =>
    have r := hs.inRender_of_active conf active
    exact hs.of_unit (f := id) r rfl (fun _ => (ite_self _).symm) (s.unit_updUnit u _) (r.life.stop active) fun _ => rfl
  | send u first second active =>
    have r := hs.inRender_of_active conf active
    exact hs.of_unit (f := id) (g := fun t => t.sendData (s.regionWords u) first second) r rfl
      (fun _ => (ite_self _).symm) (s.unit_updUnit u _) (r.life.send active _ first second) fun _ => rfl
  | serveThr u raised enabled =>
    have r := hs.inRender_of_thr conf raised enabled
    exact hs.of_unit (g := fun t => { t with thrRaw := false }) r rfl (s.chan_serveThr u) (s.unit_serveThr u)
      (r.life.refill s) fun _ => rfl
  | serveEnd u raised enabled first =>
    have r := hs.inRender_of_end conf raised enabled
    exact hs.of_unit (g := fun t => { t with endRaw := false }) r rfl (s.chan_serveEnd u) (s.unit_serveEnd u)
      (r.life.complete raised first) fun _ => rfl
  | reset => exact ⟨fun _ => rfl, fun i hi => absurd hi (Nat.not_lt_zero _), nofun, nofun⟩

/-- Settles O50: a command takes every channel to the next phase, and a unit or its service moves its own channel on. -/
theorem stepKeepsChannelLife : Obligations.StepKeepsChannelLife := by
  intro s t conf chans life taken
  obtain ⟨s', like, effect⟩ := step_effect taken
  exact effect.lifeInv (like.configInv conf) (like.chanInv chans) (like.lifeInv life)

end Sys2Proof.Machine
end

section
/-! PROOFS. Which half of its region a unit reads and which its next refill writes (R38, R49, R160, R163, R164; log 12). -/

namespace Sys2Proof.Machine

/-! ### One unit and its channel's selector -/

/-- A sending unit counts its place in the half of `half` words it reads, and the selector names that half if no refill is pending
and the other one if one is. -/
def TxUnit.ReadsApart (t : TxUnit) (half : Nat) (sel : Bool) : Prop :=
  t.active = true →
    t.cnt.toNat = t.rdptr.toNat % half ∧ (t.thrRaw = false → t.rdptr.toNat / half = sel.toNat) ∧
    (t.thrRaw = true → t.rdptr.toNat / half ≠ sel.toNat)

theorem TxUnit.ReadsApart.of_rest {t : TxUnit} (rest : t.active = false) (half : Nat) (sel : Bool) : t.ReadsApart half sel :=
  fun active => absurd (active.symm.trans rest) nofun

theorem TxUnit.readsApart_launch (t : TxUnit) (half : Nat) : t.launch.ReadsApart half false :=
  fun _ => ⟨(Nat.zero_mod half).symm, fun _ => Nat.zero_div half, nofun⟩

theorem ne_toNat_iff (b : Bool) (n : Nat) (hn : n < 2) : n ≠ b.toNat ↔ n = (!b).toNat := by
  cases b <;> simp only [Bool.toNat_true, Bool.toNat_false, Bool.not_true, Bool.not_false] <;> omega

/-- A read pointer in a region of two halves stands in the lower half or in the upper one. -/
theorem half_cases {half r : Nat} (hr : r < 2 * half) :
    (r < half ∧ r % half = r ∧ r / half = 0) ∨ ∃ q < half, r = half + q ∧ r % half = q ∧ r / half = 1 := by
  obtain low | high := Nat.lt_or_ge r half
  · exact .inl ⟨low, Nat.mod_eq_of_lt low, Nat.div_eq_of_lt low⟩
  · obtain ⟨q, rfl⟩ := Nat.exists_eq_add_of_le high
    have hq : q < half := by omega
    exact .inr ⟨q, hq, rfl, by rw [Nat.add_mod_left, Nat.mod_eq_of_lt hq],
      by rw [Nat.add_div_left _ (by omega), Nat.div_eq_of_lt hq]⟩

/-- Within a half the read pointer stays in the half. -/
theorem next_within_half {half r : Nat} (hr : r < 2 * half) (within : r % half + 1 ≠ half) :
    (r + 1) % (2 * half) % half = r % half + 1 ∧ (r + 1) % (2 * half) / half = r / half := by
  obtain ⟨low, mod, div⟩ | ⟨q, hq, rfl, mod, div⟩ := half_cases hr
  · have small : r + 1 < half := by omega
    rw [Nat.mod_eq_of_lt (show r + 1 < 2 * half by omega), Nat.mod_eq_of_lt small, Nat.div_eq_of_lt small, mod, div]
    exact ⟨rfl, rfl⟩
  · have small : q + 1 < half := by omega
    rw [Nat.mod_eq_of_lt (show half + q + 1 < 2 * half by omega), mod, div, Nat.add_assoc, Nat.add_mod_left,
      Nat.mod_eq_of_lt small, Nat.add_div_left _ (by omega), Nat.div_eq_of_lt small]
    exact ⟨rfl, rfl⟩

/-- At the end of a half the read pointer enters the other half. -/
theorem next_at_half {half r : Nat} (hr : r < 2 * half) (atEnd : r % half + 1 = half) :
    (r + 1) % (2 * half) % half = 0 ∧ (r + 1) % (2 * half) / half = 1 - r / half := by
  have pos : 0 < half := by omega
  obtain ⟨low, mod, div⟩ | ⟨q, hq, rfl, mod, div⟩ := half_cases hr
  · rw [show r + 1 = half by omega, Nat.mod_eq_of_lt (show half < 2 * half by omega), Nat.mod_self, Nat.div_self pos, div]
    exact ⟨rfl, rfl⟩
  · rw [show half + q + 1 = 2 * half by omega, Nat.mod_self, Nat.zero_mod, Nat.zero_div, div]
    exact ⟨rfl, rfl⟩

section
variable {t : TxUnit} {half : Nat} {sel : Bool} (h : t.ReadsApart half sel) (active : t.active = true)
  (narrow : half ≤ 512) (limit : t.txLim.toNat = half) (inRegion : t.rdptr.toNat < 2 * half)
include h active narrow limit inRegion

/-- The pointers after a DATA word, before anything is cut to 12 bits. -/
theorem TxUnit.sendData_pointers (first second : WavePhase) :
    (t.sendData (2 * half) first second).rdptr.toNat = (t.rdptr.toNat + 1) % (2 * half) ∧
    (t.sendData (2 * half) first second).cnt.toNat =
      if t.rdptr.toNat % half + 1 = half then 0 else t.rdptr.toNat % half + 1 := by
  have pos : 0 < half := by omega
  have wrapped := Nat.mod_lt (t.rdptr.toNat + 1) (show 0 < 2 * half by omega)
  have within := Nat.mod_lt t.rdptr.toNat pos
  obtain ⟨cnt, -⟩ := h active
  constructor
  · exact (BitVec.toNat_ofNat _ _).trans (Nat.mod_eq_of_lt (by omega))
  · simp only [TxUnit.sendData, cnt, limit]
    split
    · rfl
    · exact (BitVec.toNat_ofNat _ _).trans (Nat.mod_eq_of_lt (by omega))

/-- A DATA word that loses no event leaves the unit apart from its refill (R160, R164). -/
theorem TxUnit.ReadsApart.send (loses : ¬ (t.thrRaw = true ∧ t.cnt.toNat + 1 = t.txLim.toNat)) (first second : WavePhase) :
    (t.sendData (2 * half) first second).ReadsApart half sel := by
  obtain ⟨rdptr', cnt'⟩ := TxUnit.sendData_pointers h active narrow limit inRegion first second
  obtain ⟨cnt, idle, pending⟩ := h active
  have thr' : (t.sendData (2 * half) first second).thrRaw = (t.thrRaw || decide (t.rdptr.toNat % half + 1 = half)) := by
    simp only [TxUnit.sendData, cnt, limit]
  intro _
  rw [rdptr', cnt', thr']
  by_cases atEnd : t.rdptr.toNat % half + 1 = half
  · obtain ⟨place, other⟩ := next_at_half inRegion atEnd
    have clear : t.thrRaw = false := by simpa [cnt, limit, atEnd] using loses
    rw [place, other, idle clear, if_pos atEnd]
    refine ⟨rfl, by simp [atEnd], fun _ => ?_⟩
    cases sel <;> decide
  · obtain ⟨place, same⟩ := next_within_half inRegion atEnd
    rw [place, same, if_neg atEnd]
    exact ⟨rfl, by simpa [atEnd] using idle, by simpa [atEnd] using pending⟩

/-- A DATA word that loses an event takes the unit into the half its pending refill would write (R163, log 12). -/
theorem TxUnit.ReadsApart.lose (raised : t.thrRaw = true) (reaches : t.cnt.toNat + 1 = t.txLim.toNat)
    (first second : WavePhase) : (t.sendData (2 * half) first second).rdptr.toNat / half = sel.toNat := by
  obtain ⟨rdptr', -⟩ := TxUnit.sendData_pointers h active narrow limit inRegion first second
  obtain ⟨cnt, -, pending⟩ := h active
  have apart := pending raised
  have lt : t.rdptr.toNat / half < 2 := (Nat.div_lt_iff_lt_mul (by omega)).mpr inRegion
  rw [rdptr', (next_at_half inRegion (by rw [← cnt, ← limit]; exact reaches)).2]
  rw [ne_toNat_iff _ _ lt] at apart
  rw [apart]
  cases sel <;> rfl

end

/-- A refill moves the selector to the half the unit reads (R150, R215). -/
theorem TxUnit.ReadsApart.refill {t : TxUnit} {half : Nat} {sel : Bool} (h : t.ReadsApart half sel) (raised : t.thrRaw = true)
    (inRegion : t.rdptr.toNat < 2 * half) : { t with thrRaw := false }.ReadsApart half (!sel) := by
  intro active
  obtain ⟨cnt, -, pending⟩ := h active
  have lt : t.rdptr.toNat / half < 2 := (Nat.div_lt_iff_lt_mul (by omega)).mpr inRegion
  exact ⟨cnt, fun _ => (ne_toNat_iff _ _ lt).mp (pending raised), nofun⟩

/-! ### The half invariant, channel by channel -/

theorem State.HalfInv.readsApart {s : State} (hs : s.HalfInv) {i : Fin 8} (hi : i.val < s.chanCount) :
    (s.unit (s.unitOf i)).ReadsApart s.wp.toNat (s.chan i).sel :=
  (hs i hi).2

/-- Before START: every selector names half 0 and no unit sends. -/
theorem State.HalfInv.of_staged {t : State} (sel : ∀ i : Fin 8, i.val < t.chanCount → (t.chan i).sel = false)
    (rest : ∀ i : Fin 8, i.val < t.chanCount → (t.unit (t.unitOf i)).active = false) : t.HalfInv :=
  fun i hi => ⟨fun _ => sel i hi, TxUnit.ReadsApart.of_rest (rest i hi) t.wp.toNat (t.chan i).sel⟩

/-- In a running render, and outside a render. -/
theorem State.HalfInv.of_running {t : State} (phase : t.phase = .running ∨ t.phase = .idle)
    (apart : ∀ i : Fin 8, i.val < t.chanCount → (t.unit (t.unitOf i)).ReadsApart t.wp.toNat (t.chan i).sel) : t.HalfInv := by
  refine fun i hi => ⟨fun staged => ?_, apart i hi⟩
  rcases phase with e | e <;> rw [e] at staged <;> rcases staged with h | h | h <;> cases h

theorem State.HalfInv.readsApart_unit {s : State} (hs : s.HalfInv) {u : Fin 8} (r : s.InRender u) :
    (s.unit u).ReadsApart s.wp.toNat (s.chan (s.chanOf u)).sel := by
  have apart := hs.readsApart r.inRange
  rwa [r.unitOf] at apart

/-- In a running render, a change of one unit and its channel. -/
theorem State.HalfInv.of_unit {s t : State} (hs : s.HalfInv) {u : Fin 8} (r : s.InRender u) {f : Chan → Chan}
    {g : TxUnit → TxUnit} (frame : t = { s with chans := t.chans, units := t.units, mem := t.mem })
    (chan : ∀ i, t.chan i = if i = s.chanOf u then f (s.chan i) else s.chan i)
    (unit : ∀ v, t.unit v = if v = u then g (s.unit v) else s.unit v)
    (apart : (s.unit u).ReadsApart s.wp.toNat (s.chan (s.chanOf u)).sel →
      (g (s.unit u)).ReadsApart s.wp.toNat (f (s.chan (s.chanOf u))).sel) : t.HalfInv := by
  have count : t.chanCount = s.chanCount := by rw [frame]; rfl
  have map : ∀ i, t.unitOf i = s.unitOf i := fun i => by rw [frame]; rfl
  have wp : t.wp = s.wp := by rw [frame]
  refine .of_running (.inl (by rw [frame, r.running])) fun i hi => ?_
  rw [count] at hi
  rw [map, wp, chan, unit]
  by_cases e : i = s.chanOf u
  · subst e
    rw [if_pos rfl, r.unitOf, if_pos rfl]
    exact apart (hs.readsApart_unit r)
  · rw [if_neg e, if_neg (r.unitOf_ne hi e)]
    exact hs.readsApart hi

theorem State.HalfInv.release {s : State} (hs : s.HalfInv) (running : s.phase = .running) (ch : Fin 8) :
    (s.release ch).HalfInv := by
  refine .of_running ?_ fun i hi => ?_
  · rw [s.release_phase]
    split
    · exact .inr rfl
    · exact .inl running
  · have sel : ((s.release ch).chan i).sel = (s.chan i).sel := by rw [s.chan_release]; split <;> rfl
    rw [sel]
    exact hs.readsApart hi

/-- PRIME moves every selector twice, back to where it was (R156). -/
theorem State.primeAll_sel (s : State) (i : Fin 8) : (s.primeAll.chan i).sel = (s.chan i).sel := by
  have kept := State.forChannels_keeps (s := s) (f := fun t j => (t.copy j).copy j)
    (P := fun t => (t.chan i).sel = (s.chan i).sel) rfl fun t j ht _ => by
      rw [State.chan_copy, State.chan_copy]
      split
      · exact (Bool.not_not _).trans ht
      · exact ht
  exact kept

/-- Outside a running render no configured channel's unit sends. -/
theorem State.LifeInv.rest {s : State} (hs : s.LifeInv) (hp : s.phase ≠ .running) {i : Fin 8} (hi : i.val < s.chanCount) :
    (s.unit (s.unitOf i)).active = false := by
  obtain ⟨-, admits, -, -⟩ := hs
  exact (RenderPhase.admits_quiet (admits i hi) hp).1

theorem CommandEffect.halfInv {s t : State} (h : CommandEffect s t) (conf : s.ConfigInv) (life : s.LifeInv) (hs : s.HalfInv) :
    t.HalfInv := by
  cases h with
  | init nch before =>
    obtain ⟨-, -, -, -, units⟩ := conf.2 before
    refine .of_running (.inr (life.1 before)) fun i _ => .of_rest ?_ _ _
    rw [s.unit_initialise, units]
    split <;> rfl
  | load pixels frame _ phase =>
    refine .of_staged (fun i (hi : i.val < s.chanCount) => ?_) fun i hi => life.rest (by rw [phase]; nofun) hi
    rw [s.chan_loadFrame, if_pos hi]
    rfl
  | prime _ phase =>
    have count : s.primeAll.chanCount = s.chanCount := by rw [State.chanCount, s.primeAll_nch, State.chanCount]
    refine .of_staged (fun i hi => ?_) fun i hi => ?_ <;> rw [count] at hi
    · rw [s.primeAll_sel]
      exact (hs i hi).1 (.inl phase)
    · rw [s.primeAll_unit, s.primeAll_unitOf]
      exact life.rest (by rw [phase]; nofun) hi
  | arm _ phase =>
    refine .of_staged (fun i (hi : i.val < s.chanCount) => ?_) fun i hi => life.rest (by rw [phase]; nofun) hi
    rw [s.chan_armAll, if_pos hi]
    exact (hs i hi).1 (.inr (.inl phase))
  | start _ phase =>
    refine .of_running (.inl rfl) fun i (hi : i.val < s.chanCount) => ?_
    have sel : (s.startAll.chan i).sel = false := by
      rw [s.chan_startAll, if_pos hi]
      exact (hs i hi).1 (.inr (.inr phase))
    rw [sel, s.startAll_unitOf, s.unit_startAll, if_pos ((s.serves_iff _).mpr ⟨i, hi, rfl⟩)]
    exact TxUnit.readsApart_launch _ _
  | wait ch _ phase =>
    obtain ⟨e, -⟩ | ⟨e, -⟩ := s.awaitSignal_cases ch <;> rw [e]
    · exact hs.release phase ch
    · exact hs

/-- What the arithmetic of a unit's step needs of the configuration and of the unit's pointers. -/
theorem State.InRender.half_bounds {s : State} {u : Fin 8} (r : s.InRender u) (pointers : s.PointerInv) :
    s.wp.toNat ≤ 512 ∧ (s.unit u).txLim.toNat = s.wp.toNat ∧ (s.unit u).rdptr.toNat < 2 * s.wp.toNat ∧
      s.regionWords u = 2 * s.wp.toNat := by
  obtain ⟨-, -, -, -, -, -, -, txLim, -⟩ := r.configured.unitConfigured r.inRange
  have used := r.configured.used r.inRange
  have region := r.configured.regionWords_eq r.inRange
  rw [r.unitOf] at txLim used region
  obtain ⟨rdptr, -⟩ := pointers u used
  exact ⟨r.configured.wp_le, by rw [txLim], by rwa [region] at rdptr, region⟩

section
variable {s t : State} (conf : s.ConfigInv) (pointers : s.PointerInv) (life : s.LifeInv) (hs : s.HalfInv)
include conf pointers life hs

theorem AgentEffect.halfInv {turn : Turn} (h : AgentEffect turn s t)
    (loses : ∀ u, turn = .unit u → (s.unit u).active = true →
      ¬ ((s.unit u).thrRaw = true ∧ (s.unit u).cnt.toNat + 1 = (s.unit u).txLim.toNat)) : t.HalfInv := by
  cases h with
  | pass alike | marked alike => exact alike.halfInv hs
  | gpio | frame => exact hs
  | returned ch held =>
    obtain ⟨-, -, -, hold⟩ := life
    exact hs.release (hold ch held).1 ch
  | command effect => exact effect.halfInv conf life hs
  | stop u active =>
    have r := life.inRender_of_active conf active
    exact hs.of_unit (f := id) r rfl (fun _ => (ite_self _).symm) (s.unit_updUnit u _) fun _ => .of_rest rfl _ _
  | send u first second active =>
    have r := life.inRender_of_active conf active
    obtain ⟨narrow, limit, inRegion, region⟩ := r.half_bounds pointers
    rw [region]
    exact hs.of_unit (f := id) (g := fun t => t.sendData (2 * s.wp.toNat) first second) r rfl
      (fun _ => (ite_self _).symm) (s.unit_updUnit u _)
      fun apart => apart.send active narrow limit inRegion (loses u rfl active) first second
  | serveThr u raised enabled =>
    have r := life.inRender_of_thr conf raised enabled
    obtain ⟨-, -, inRegion, -⟩ := r.half_bounds pointers
    exact hs.of_unit (g := fun t => { t with thrRaw := false }) r rfl (s.chan_serveThr u) (s.unit_serveThr u)
      fun apart => apart.refill raised inRegion
  | serveEnd u raised enabled =>
    have r := life.inRender_of_end conf raised enabled
    exact hs.of_unit (g := fun t => { t with endRaw := false }) r rfl (s.chan_serveEnd u) (s.unit_serveEnd u) id
  | reset => exact fun i hi => absurd hi (Nat.not_lt_zero _)

/-- A step of a unit that reaches its limit with an event pending, and neither stops nor is a model fault, loses the event. -/
theorem AgentEffect.eventLost_of_loses {u : Fin 8} (h : AgentEffect (.unit u) s t) (active : (s.unit u).active = true)
    (raised : (s.unit u).thrRaw = true) (reaches : (s.unit u).cnt.toNat + 1 = (s.unit u).txLim.toNat)
    (sends : (t.unit u).active = true) (unmarked : t.modelFault = none) : t.EventLost u := by
  cases h with
  | pass _ rests => exact absurd (active.symm.trans (rests u rfl)) nofun
  | marked _ marked => exact absurd unmarked marked
  | stop => simp [TxUnit.stop] at sends
  | send _ first second =>
    have r := life.inRender_of_active conf active
    obtain ⟨narrow, limit, inRegion, region⟩ := r.half_bounds pointers
    have enters := (hs.readsApart_unit r).lose active narrow limit inRegion raised reaches first second
    unfold State.EventLost State.halfRead State.chanOf
    rw [State.unit_updUnit, if_pos rfl, region]
    exact ⟨active, by simp [TxUnit.sendData, raised], enters⟩

end

/-! ### After a loss -/

/-- A loss stands while the unit and its channel's selector stay as they are. -/
theorem State.EventLost.of_sel {s t : State} {u : Fin 8} (lost : s.EventLost u) (unit : t.unit u = s.unit u) (wp : t.wp = s.wp)
    (sel : (t.chan (s.chanOf u)).sel = (s.chan (s.chanOf u)).sel) : t.EventLost u := by
  unfold State.EventLost State.halfRead State.chanOf
  rw [unit, wp]
  exact sel ▸ lost

theorem State.EventLost.release {s : State} {u : Fin 8} (lost : s.EventLost u) (ch : Fin 8) : (s.release ch).EventLost u :=
  lost.of_sel rfl rfl (by rw [s.chan_release]; split <;> rfl)

/-- In a running render no command but WAIT has an effect. -/
theorem CommandEffect.eventLost {s t : State} {u : Fin 8} (h : CommandEffect s t) (done : s.initDone = true)
    (running : s.phase = .running) (lost : s.EventLost u) : t.EventLost u := by
  cases h with
  | init _ before => exact absurd (done.symm.trans before) nofun
  | load _ _ _ phase | prime _ phase | arm _ phase | start _ phase => exact absurd (running.symm.trans phase) nofun
  | wait ch =>
    obtain ⟨e, -⟩ | ⟨e, -⟩ := s.awaitSignal_cases ch <;> rw [e]
    · exact lost.release ch
    · exact lost

/-- Every agent but the unit and its service leaves the loss as it is. -/
theorem AgentEffect.eventLost {turn : Turn} {s t : State} {u : Fin 8} (h : AgentEffect turn s t) (conf : s.ConfigInv)
    (life : s.LifeInv) (lost : s.EventLost u) (noReset : ∀ program, turn ≠ .reset program) (notUnit : turn ≠ .unit u)
    (notService : turn ≠ .service u) : t.EventLost u := by
  have ⟨active, _, _⟩ := lost
  have r := life.inRender_of_active conf active
  cases h with
  | pass alike | marked alike => exact alike.eventLost lost
  | returned ch => exact lost.release ch
  | gpio | frame => exact lost
  | command effect => exact effect.eventLost (conf.chanOf (.inl active)).1 r.running lost
  | stop v | send v =>
    have other : u ≠ v := by rintro rfl; exact notUnit rfl
    exact lost.of_sel (by rw [State.unit_updUnit, if_neg other]) rfl rfl
  | serveThr v raised enabled =>
    have other : u ≠ v := by rintro rfl; exact notService rfl
    have r' := life.inRender_of_thr conf raised enabled
    refine lost.of_sel (by rw [s.unit_serveThr, if_neg other]) rfl ?_
    rw [s.chan_serveThr, if_neg]
    intro same
    exact other (by rw [← r.unitOf, same, r'.unitOf])
  | serveEnd v =>
    have other : u ≠ v := by rintro rfl; exact notService rfl
    exact lost.of_sel (by rw [s.unit_serveEnd, if_neg other]) rfl (by rw [s.chan_serveEnd]; split <;> rfl)
  | reset program => exact absurd rfl (noReset program)

/-- After a loss the unit's own step is an UNDERRUN (R163). -/
theorem unitStep_eventLost {s : State} {u : Fin 8} (lost : s.EventLost u) :
    unitStep u s = .next { s with modelFault := some .underrun } := by
  obtain ⟨active, raised, half⟩ := lost
  simp [unitStep, active, State.underrun, raised, half, raiseModelFault]

/-- After a loss the service of the event is an UNDERRUN (log 12). -/
theorem serviceStep_eventLost {s : State} {u : Fin 8} (lost : s.EventLost u) (enabled : (s.unit u).thrEna = true) :
    serviceStep u s = .next { s with modelFault := some .underrun } := by
  have ⟨_, raised, _⟩ := lost
  have pending := TxUnit.thrPending_iff.mpr ⟨raised, enabled⟩
  simp [serviceStep, State.eligibleEvent, pending, exec_decodeEvent_thr, execEventThr_late (State.refillLate_iff.mpr lost)]

theorem guardModelFault_unmarked {s : State} (h : s.modelFault = none) (run : Answer) : guardModelFault s run = run := by
  simp [guardModelFault, h]

theorem step_eventLost {s : State} {u : Fin 8} (lost : s.EventLost u) (unmarked : s.modelFault = none)
    (turn : s.nextTurn = .unit u ∨ (s.nextTurn = .service u ∧ (s.unit u).thrEna = true)) :
    step s = .next { s.takeTurn with modelFault := some .underrun } := by
  have lost' : s.takeTurn.EventLost u := s.alike_takeTurn.eventLost lost
  have runs := guardModelFault_unmarked (s.takeTurn_modelFault.trans unmarked)
  unfold step
  obtain turn | ⟨turn, enabled⟩ := turn <;> rw [turn]
  · exact (runs _).trans (unitStep_eventLost lost')
  · exact (runs _).trans (serviceStep_eventLost lost' (by rwa [s.takeTurn_unit]))

/-- Settles O51: a DATA word at the end of a half moves the unit to the other half and a refill moves the selector, so they stay
apart until an event is lost; then both the unit's step and its service are an UNDERRUN, and no other agent moves either. -/
theorem stepKeepsHalvesApart : Obligations.StepKeepsHalvesApart := by
  refine ⟨fun s t conf pointers life half taken => ?_, fun s u lost => ?_, fun s t u conf life lost taken noReset => ?_⟩
  · obtain ⟨s', like, effect⟩ := step_effect taken
    refine ⟨fun keeps => ?_, fun u ⟨turn, active, raised, reaches⟩ sends unmarked => ?_⟩
    · refine effect.halfInv (like.configInv conf) (like.pointerInv pointers) (like.lifeInv life) (like.halfInv half) ?_
      simp only [like.unit]
      exact fun u turn active loses => keeps ⟨u, turn, active, loses⟩
    · rw [turn] at effect
      rw [← like.unit] at active raised reaches
      exact effect.eventLost_of_loses (like.configInv conf) (like.pointerInv pointers) (like.lifeInv life)
        (like.halfInv half) active raised reaches sends unmarked
  · exact ⟨execEventThr_late (State.refillLate_iff.mpr lost), step_eventLost lost⟩
  · obtain ⟨s', like, effect⟩ := step_effect taken
    exact effect.eventLost (like.configInv conf) (like.lifeInv life) (like.eventLost lost) noReset

end Sys2Proof.Machine
end

section
/-! PROOFS. The registers as their fields and bits (R22 to R51), and what reset leaves (R58, R240). -/

namespace Sys2Proof.Machine

/-! ### Words put together from fields -/

/-- Bit `k` of a placed field. -/
theorem getLsbD_place {n : Nat} (lo : Nat) (v : BitVec n) (k : Nat) :
    (place lo v).getLsbD k = (decide (lo ≤ k) && decide (k < 32) && v.getLsbD (k - lo)) := by
  simp only [place, BitVec.getLsbD_shiftLeft, BitVec.getLsbD_setWidth]
  by_cases h : k < 32
  · by_cases h' : lo ≤ k
    · simp [h, h', show ¬ k < lo by omega, show k - lo < 32 by omega]
    · simp [h', show k < lo by omega]
  · simp [h]

/-- Two fields placed as one. -/
theorem place_append {m n : Nat} (lo : Nat) (a : BitVec m) (b : BitVec n) :
    place lo (a ++ b) = place lo b ||| place (lo + n) a := by
  apply BitVec.eq_of_getLsbD_eq
  intro k hk
  simp only [BitVec.getLsbD_or, getLsbD_place, BitVec.getLsbD_append]
  by_cases h : lo ≤ k
  · by_cases h' : k - lo < n
    · simp [h, h', hk, show ¬ lo + n ≤ k by omega]
    · simp [h, h', hk, show lo + n ≤ k by omega, Nat.sub_sub, BitVec.getLsbD_of_ge b (k - lo) (by omega)]
  · simp [h, show ¬ lo + n ≤ k by omega]

theorem or_place_zero (lo n : Nat) (w : Word) : w ||| place lo (0#n) = w := by
  simp [place]

/-- A word written as two fields one after the other, the higher one first. -/
theorem append_eq_place {m n : Nat} (a : BitVec m) (b : BitVec n) (h : m + n = 32) :
    (a ++ b).cast h = place 0 b ||| place n a := by
  have joined := place_append 0 a b
  rw [Nat.zero_add] at joined
  rw [← joined]
  apply BitVec.eq_of_getLsbD_eq
  intro k hk
  rw [getLsbD_place, BitVec.getLsbD_cast]
  simp [hk]

/-- A register of one field with zeros above. -/
theorem place_eq_append {m n : Nat} (b : BitVec n) (h : m + n = 32) : place 0 b = (0#m ++ b).cast h := by
  rw [append_eq_place, or_place_zero]

/-! ### Offsets and fields -/

section
variable (p : Params) {r : Reg} (id : r ≠ .id) (param0 : r ≠ .param0) (param1 : r ≠ .param1) (t0 : r ≠ .t0) (t1 : r ≠ .t1)
  (trst : r ≠ .trst)
include id param0 param1 t0 t1 trst

/-- A register that is no constant does not read the parameters. -/
theorem State.readReg_resetWith_eq (q : Params) : (State.resetWith p).readReg r = (State.resetWith q).readReg r := by
  cases r with
  | id | param0 | param1 | t0 | t1 | trst => contradiction
  | _ => rfl

/-- After reset a register that is no constant reads 0 (R58). -/
theorem State.readReg_resetWith : (State.resetWith p).readReg r = 0#32 := by
  rw [State.readReg_resetWith_eq p id param0 param1 t0 t1 trst Params.sample]
  cases r with
  | id | param0 | param1 | t0 | t1 | trst => contradiction
  | cmd | chReserved => rfl
  | status | fault | config | map | intRaw | intEna | intSt => decide
  | gpio i => rw [State.readReg, State.gpio_resetWith]; rfl
  | chLen i | chPos i | chFlags i => rw [State.readReg, State.chan_resetWith]; rfl
  | unitConf u | unitTxlim u | unitPtr u => rw [State.readReg, State.unit_resetWith]; rfl

end

/-- Settles O35: each word is its fields one after the other. -/
theorem constantRegisters : Obligations.ConstantRegisters := by
  have two_fields : ∀ a b : BitVec 15, place 0 a ||| place 16 b = 0#1 ++ b ++ 0#1 ++ a := fun a b => by
    refine Eq.trans ?_ (append_eq_place (m := 1 + 15 + 1) _ _ rfl).symm
    simp only [place_append, -Nat.reduceAdd]
    rw [or_place_zero, ← BitVec.or_assoc, or_place_zero]
  intro s
  refine ⟨rfl, rfl, rfl, ?_, rfl, place_eq_append _ rfl, rfl, two_fields _ _, rfl, two_fields _ _, rfl, place_eq_append _ rfl⟩
  refine Eq.trans ?_ (append_eq_place (m := 8 + 8 + 8) _ _ rfl).symm
  simp only [State.readReg, place_append, BitVec.or_assoc, -Nat.reduceAdd]
  rfl

theorem mem_indices (i : Fin 8) : i ∈ indices := by
  revert i
  decide

/-- BUSY (R25). -/
theorem State.busy_eq (s : State) : s.busy = decide (∃ i : Fin 8, i.val < s.chanCount ∧ (s.chan i).inFlight = true) := by
  rw [Bool.eq_iff_iff, State.busy, List.any_eq_true]
  simp [mem_indices]

/-- FAULTED: no fault has code 0 (R25, R211). -/
theorem State.halted_eq (s : State) : s.halted = decide (s.faultCode ≠ 0#8) := by
  unfold State.halted State.faultCode
  cases s.fault with
  | none => rfl
  | some code => cases code <;> rfl

theorem State.statusWord_eq (s : State) :
    s.statusWord =
      0#26 ++ BitVec.ofBool (decide (∃ i : Fin 8, i.val < s.chanCount ∧ (s.chan i).inFlight = true)) ++
        BitVec.ofBool (decide (s.faultCode ≠ 0#8)) ++ s.phase.code ++ BitVec.ofBool s.initDone := by
  refine Eq.trans ?_ (append_eq_place (m := 26 + 1 + 1 + 3) _ _ rfl).symm
  rw [← s.busy_eq, ← s.halted_eq, State.statusWord]
  simp only [placeBit, place_append, BitVec.or_assoc, -Nat.reduceAdd]
  rw [or_place_zero]

/-- Settles O36: the words field by field; the numbers are the definition's. -/
theorem statusRegisters : Obligations.StatusRegisters := by
  refine ⟨fun s => ⟨rfl, s.statusWord_eq, fun p => State.readReg_resetWith p nofun nofun nofun nofun nofun nofun,
    rfl, place_eq_append _ rfl, ?_, ?_, rfl, ?_, rfl, rfl⟩,
    rfl, rfl, rfl, rfl, rfl, rfl, rfl, rfl, rfl, rfl, rfl, rfl, rfl⟩
  · intro unfaulted
    rw [State.faultCode, unfaulted]
  · intro c fault
    rw [State.faultCode, fault]
  · refine Eq.trans ?_ (append_eq_place (m := 12 + 12 + 4) _ _ rfl).symm
    simp only [State.readReg, place_append, BitVec.or_assoc, -Nat.reduceAdd]
    rw [or_place_zero]

theorem Chan.flagsWord_eq (c : Chan) :
    c.flagsWord =
      0#26 ++ BitVec.ofBool c.inFlight ++ BitVec.ofBool c.bufValid ++ c.sig.code ++ BitVec.ofBool c.sel ++
        BitVec.ofBool c.dirty := by
  refine Eq.trans ?_ (append_eq_place (m := 26 + 1 + 1 + 2 + 1) _ _ rfl).symm
  rw [Chan.flagsWord]
  simp only [placeBit, place_append, BitVec.or_assoc, -Nat.reduceAdd]
  rw [or_place_zero]

theorem TxUnit.confWord_eq (t : TxUnit) :
    t.confWord =
      0#5 ++ BitVec.ofNat 3 t.lch.val ++ t.gpio ++ BitVec.ofBool t.active ++ BitVec.ofBool t.used ++
        BitVec.ofBool t.wrapEn ++ BitVec.ofBool t.idleLevel ++ t.memSize ++ t.div := by
  refine Eq.trans ?_ (append_eq_place (m := 5 + 3 + 8 + 1 + 1 + 1 + 1 + 4) _ _ rfl).symm
  rw [TxUnit.confWord]
  simp only [placeBit, place_append, BitVec.or_assoc, -Nat.reduceAdd]
  rw [or_place_zero]

/-- Each of the banks of eight registers stands at its offset (R22). -/
theorem regAt_banks (i : Fin 8) :
    regAt (0x040 + 4 * i.val) = some (.gpio i) ∧
    regAt (0x080 + 16 * i.val) = some (.chLen i) ∧ regAt (0x084 + 16 * i.val) = some (.chPos i) ∧
    regAt (0x088 + 16 * i.val) = some (.chFlags i) ∧ regAt (0x08C + 16 * i.val) = some (.chReserved i) ∧
    regAt (0x140 + 4 * i.val) = some (.unitConf i) ∧ regAt (0x160 + 4 * i.val) = some (.unitTxlim i) ∧
    regAt (0x180 + 4 * i.val) = some (.unitPtr i) := by
  revert i
  decide

/-- Settles O37: the banks' offsets, and each word field by field. -/
theorem channelAndUnitRegisters : Obligations.ChannelAndUnitRegisters := by
  refine ⟨rfl, rfl, rfl, fun s i => ?_⟩
  obtain ⟨-, len, pos, flags, reserved, conf, txlim, ptr⟩ := regAt_banks i
  refine ⟨len, place_eq_append _ rfl, pos, place_eq_append _ rfl, flags, Chan.flagsWord_eq _, reserved, rfl, conf,
    TxUnit.confWord_eq _, txlim, place_eq_append _ rfl, ptr, ?_⟩
  refine Eq.trans ?_ (append_eq_place (m := 4 + 12 + 4) _ _ rfl).symm
  simp only [State.readReg, place_append, -Nat.reduceAdd]
  rw [or_place_zero, ← BitVec.or_assoc, or_place_zero]

/-! ### Words of bits -/

/-- Bit `k` of words gathered in a loop. -/
theorem getLsbD_foldl_or (g : Fin 8 → Word) (k : Nat) : ∀ (l : List (Fin 8)) (w : Word),
    (l.foldl (fun w u => w ||| g u) w).getLsbD k = (w.getLsbD k || l.any fun u => (g u).getLsbD k) := by
  intro l
  induction l with
  | nil => intro w; simp
  | cons u l ih => intro w; simp [ih, Bool.or_assoc]

theorem getLsbD_placeBit (i : Nat) (b : Bool) (k : Nat) :
    (placeBit i b).getLsbD k = (decide (k = i) && decide (k < 32) && b) := by
  rw [placeBit, getLsbD_place, BitVec.getLsbD_ofBool]
  by_cases h : k = i
  · simp [h]
  · simp only [h, decide_false, Bool.false_and]
    by_cases h' : i ≤ k
    · simp [show k - i ≠ 0 by omega]
    · simp [h']

theorem getLsbD_placeBits (lo : Nat) (f : Fin 8 → Bool) (k : Nat) :
    (placeBits lo f).getLsbD k = true ↔ k < 32 ∧ ∃ u : Fin 8, k = lo + u.val ∧ f u = true := by
  rw [placeBits, getLsbD_foldl_or]
  simp only [BitVec.getLsbD_zero, Bool.false_or, List.any_eq_true, mem_indices, true_and, getLsbD_placeBit, Bool.and_eq_true,
    decide_eq_true_eq]
  exact ⟨fun ⟨u, ⟨at_u, lt⟩, on⟩ => ⟨lt, u, at_u, on⟩, fun ⟨lt, u, at_u, on⟩ => ⟨u, ⟨at_u, lt⟩, on⟩⟩

/-- The interrupt words have a threshold bit at `u` and an end bit at `8 + u`, and nothing above (R49, R50). -/
theorem bit_interrupts (thr fin : Fin 8 → Bool) :
    (∀ u : Fin 8, bit (placeBits 0 thr ||| placeBits 8 fin) u.val = thr u ∧
      bit (placeBits 0 thr ||| placeBits 8 fin) (8 + u.val) = fin u) ∧
    ∀ k, 16 ≤ k → bit (placeBits 0 thr ||| placeBits 8 fin) k = false := by
  have on : ∀ k, bit (placeBits 0 thr ||| placeBits 8 fin) k = true ↔
      k < 32 ∧ ((∃ v : Fin 8, k = v.val ∧ thr v = true) ∨ ∃ v : Fin 8, k = 8 + v.val ∧ fin v = true) := fun k => by
    rw [bit, BitVec.getLsbD_or, Bool.or_eq_true, getLsbD_placeBits, getLsbD_placeBits]
    simp only [Nat.zero_add, and_or_left]
  refine ⟨fun u => ⟨?_, ?_⟩, fun k hk => ?_⟩
  · rw [Bool.eq_iff_iff, on]
    constructor
    · rintro ⟨-, ⟨v, e, hv⟩ | ⟨v, e, -⟩⟩
      · rwa [Fin.ext e]
      · omega
    · exact fun h => ⟨by omega, .inl ⟨u, rfl, h⟩⟩
  · rw [Bool.eq_iff_iff, on]
    constructor
    · rintro ⟨-, ⟨v, e, -⟩ | ⟨v, e, hv⟩⟩
      · omega
      · rwa [show u = v by omega]
    · exact fun h => ⟨by omega, .inr ⟨u, rfl, h⟩⟩
  · rw [Bool.eq_false_iff, ne_eq, on]
    rintro ⟨-, ⟨v, e, -⟩ | ⟨v, e, -⟩⟩ <;> omega

/-- Bit `j` of the nibble of channel `u` in MAP (R28). -/
theorem State.getLsbD_mapWord (s : State) (u : Fin 8) (j : Nat) (hj : j < 4) :
    s.mapWord.getLsbD (4 * u.val + j) = (BitVec.ofNat 3 (s.unitOf u).val).getLsbD j := by
  rw [State.mapWord, getLsbD_foldl_or, BitVec.getLsbD_zero, Bool.false_or, Bool.eq_iff_iff, List.any_eq_true]
  simp only [mem_indices, true_and, getLsbD_place, Bool.and_eq_true, decide_eq_true_eq]
  constructor
  · rintro ⟨v, ⟨le, -⟩, on⟩
    have lt := BitVec.lt_of_getLsbD on
    obtain rfl : u = v := by omega
    rwa [Nat.add_sub_cancel_left] at on
  · intro on
    exact ⟨u, ⟨by omega, by omega⟩, by rwa [Nat.add_sub_cancel_left]⟩

/-- Settles O38: the interrupt words bit by bit, MAP nibble by nibble. -/
theorem interruptAndMapWords : Obligations.InterruptAndMapWords := by
  refine ⟨rfl, rfl, rfl, rfl, fun s u => ?_⟩
  obtain ⟨raw, raw_above⟩ := bit_interrupts (fun u => (s.unit u).thrRaw) (fun u => (s.unit u).endRaw)
  obtain ⟨ena, ena_above⟩ := bit_interrupts (fun u => (s.unit u).thrEna) (fun u => (s.unit u).endEna)
  have st : ∀ k, bit (s.readReg .intSt) k = (bit (s.readReg .intRaw) k && bit (s.readReg .intEna) k) := fun k =>
    BitVec.getLsbD_and
  refine ⟨(raw u).1, (raw u).2, (ena u).1, (ena u).2, fun k hk => ⟨raw_above k hk, ena_above k hk⟩, rfl, ?_, ?_, ?_, ?_⟩
  · rw [st, show bit (s.readReg .intRaw) u.val = _ from (raw u).1, show bit (s.readReg .intEna) u.val = _ from (ena u).1]
    rfl
  · rw [st, show bit (s.readReg .intRaw) (8 + u.val) = _ from (raw u).2,
      show bit (s.readReg .intEna) (8 + u.val) = _ from (ena u).2]
    rfl
  · apply BitVec.eq_of_getLsbD_eq
    intro j hj
    simp only [bits, BitVec.getLsbD_extractLsb', hj, decide_true, Bool.true_and]
    exact s.getLsbD_mapWord u j (by omega)
  · exact (s.getLsbD_mapWord u 3 (by omega)).trans (BitVec.getLsbD_of_ge _ 3 (Nat.le_refl 3))

/-- Settles O39: INIT configures every used unit with a low idle level. -/
theorem restingLineIsIdleLevel : Obligations.RestingLineIsIdleLevel := by
  intro s u used rest
  have line : s.restLine u = some (s.unit u).idleLevel := by simp [State.restLine, used, rest]
  refine ⟨line, fun conf => ?_⟩
  obtain ⟨configured, i, hi, rfl⟩ := conf.exists_unitOf used
  obtain ⟨-, -, idleLevel, -⟩ := configured.unitConfigured hi
  rw [line, idleLevel]

/-! ### Reset -/

/-- Settles O12: every register is read, field by field where it is a constant. -/
theorem resetValues : Obligations.ResetValues := by
  intro p
  obtain ⟨-, id, -, param0, -, param1, -, t0, -, t1, -, trst⟩ := constantRegisters (State.resetWith p)
  exact ⟨fun _ => State.readReg_resetWith p, id, rfl, param0, param1, t0, t1, trst, fun i => by rw [State.chan_resetWith]; rfl,
    fun u => by rw [State.unit_resetWith]; rfl, fun _ => rfl, rfl⟩

/-- Settles O13: the reset input's step is `State.restart` of the state whose turn is taken. -/
theorem resetAtAnyTime : Obligations.ResetAtAnyTime := by
  intro s program rest turn
  simp [step, turnStep, State.nextTurn, State.takeTurn, turn, State.restart]

/-- Settles O45: the reset input brings all the invariants about, from any state. -/
theorem resetMeetsInvariants : Obligations.ResetMeetsInvariants := by
  intro p
  have conf := State.configInv_resetWith p
  refine ⟨⟨conf, ⟨.nil, nofun⟩, fun i => ?_, fun u used => ?_, ⟨fun _ => rfl, ?_, nofun, nofun⟩⟩, ?_⟩
  · rw [State.chan_resetWith]
    exact ⟨Nat.zero_le _, Nat.zero_le _, fun _ => rfl⟩
  · rw [State.unit_resetWith] at used
    cases used
  · exact fun i hi => absurd hi (Nat.not_lt_zero _)
  · exact fun i hi => absurd hi (Nat.not_lt_zero _)

end Sys2Proof.Machine
end

section
namespace Sys2Proof.Machine

/-! ### The address space -/

theorem chanReg_ne_cmd (k : Nat) : chanReg k ≠ .cmd := by
  unfold chanReg
  split <;> nofun

theorem regAt_cmd_iff {o : Nat} : regAt o = some .cmd ↔ o = 0x004 := by
  simp only [regAt, ite_eq_iff, Option.some.injEq, chanReg_ne_cmd, reduceCtorEq, and_false, false_or, and_true, or_false]
  omega

/-- The offsets that hold no register (R22). -/
theorem regAt_none_iff {o : Nat} (low : o < 0x1000) (aligned : o % 4 = 0) :
    regAt o = none ↔
      (0x02C ≤ o ∧ o < 0x040) ∨ (0x060 ≤ o ∧ o < 0x080) ∨ (0x10C ≤ o ∧ o < 0x140) ∨ 0x1A0 ≤ o := by
  simp only [regAt, ite_eq_iff, reduceCtorEq, and_false, false_or, and_true]
  omega

section
variable {p : Params} {width : Width} {addr : BitVec 18}

theorem busTarget_reg_iff {r : Reg} :
    busTarget p width addr = some (.reg r) ↔
      width = .word ∧ addr.toNat % 4 = 0 ∧ addr.toNat < 0x1000 ∧ regAt addr.toNat = some r := by
  simp only [busTarget, ite_eq_iff, Option.map_eq_some_iff, Option.some.injEq, Target.reg.injEq, reduceCtorEq, and_false,
    false_or, or_false, exists_eq_right, not_not]
  constructor
  · rintro ⟨aligned, low, rfl, found⟩
    exact ⟨rfl, aligned, low, found⟩
  · rintro ⟨rfl, aligned, low, found⟩
    exact ⟨aligned, low, rfl, found⟩

theorem busTarget_pram_iff {w : Nat} :
    busTarget p width addr = some (.pram w) ↔ width = .word ∧ addr.toNat = 0x1000 + 4 * w ∧ w < 8 * p.raw.ppb := by
  simp only [busTarget, ite_eq_iff, Option.map_eq_some_iff, Option.some.injEq, Target.pram.injEq, reduceCtorEq, and_false,
    false_or, or_false, exists_false, not_not]
  unfold pramAddr Params.pramWords totalBlocks
  have ppb := p.valid.2.1
  constructor
  · rintro ⟨aligned, high, low, ⟨rfl, inside⟩, rfl⟩
    have : addr.toNat % 4 = 0 := aligned
    exact ⟨rfl, by omega, by omega⟩
  · rintro ⟨rfl, at_w, inside⟩
    rw [at_w]
    exact ⟨show (0x1000 + 4 * w) % 4 = 0 by omega, by omega, by omega, ⟨rfl, by omega⟩, by omega⟩

theorem busTarget_frame_iff {k : Nat} :
    busTarget p width addr = some (.frame k) ↔
      addr.toNat % width.bytes = 0 ∧ addr.toNat = 0x10000 + k ∧ k + width.bytes ≤ 3 * p.raw.maxPixels := by
  simp only [busTarget, ite_eq_iff, Option.map_eq_some_iff, Option.some.injEq, Target.frame.injEq, reduceCtorEq, and_false,
    false_or, or_false, exists_false, not_not]
  unfold frameAddr Params.frameBytes
  constructor
  · rintro ⟨aligned, high, high', high'', inside, rfl⟩
    exact ⟨aligned, by omega, by omega⟩
  · rintro ⟨aligned, at_k, inside⟩
    exact ⟨aligned, by omega, by omega, by omega, by omega, by omega⟩

end

/-- Settles O29: one region after the other; the offsets with no register are the gaps of the register map. -/
theorem regionsAdmitAccesses : Obligations.RegionsAdmitAccesses :=
  ⟨fun _ _ _ => ⟨fun _ => busTarget_reg_iff, fun _ => busTarget_pram_iff, fun _ => busTarget_frame_iff⟩,
    fun _ low aligned => regAt_none_iff low aligned⟩

/-! ### Accesses that fault -/

theorem State.recordFault_eq {s : State} (h : s.fault = none) (code : FaultCode) :
    s.recordFault code = { s with fault := some code } := by
  simp [State.recordFault, h]

theorem State.recordFault_halted_eq {s : State} (h : s.fault ≠ none) (code : FaultCode) : s.recordFault code = s := by
  unfold State.recordFault
  split
  · contradiction
  · rfl

theorem busRead_bad {s : State} {width : Width} {addr : BitVec 18} (h : busTarget s.cfg width addr = none) :
    busRead width addr s = badRead s := by
  simp [busRead, h]

theorem busWrite_reg {s : State} {width : Width} {addr : BitVec 18} {v : Word} {r : Reg}
    (h : busTarget s.cfg width addr = some (.reg r)) : busWrite width addr v s = writeReg r v s := by
  simp [busWrite, h]

/-- Only CMD and GPIO take a write (R22). -/
theorem writeReg_bad {r : Reg} (cmd : r ≠ .cmd) (gpio : ∀ i, r ≠ .gpio i) (v : Word) (s : State) :
    writeReg r v s = raiseFault .badAccess s := by
  unfold writeReg
  split
  · exact absurd rfl cmd
  · exact absurd rfl (gpio _)
  · rfl

/-- The writes that are a BAD_ACCESS (R22, R72). -/
theorem busWrite_bad {s : State} {width : Width} {addr : BitVec 18} {v : Word}
    (h : busTarget s.cfg width addr = none ∨ (∃ w, busTarget s.cfg width addr = some (.pram w)) ∨
      (∃ r, busTarget s.cfg width addr = some (.reg r) ∧ r ≠ .cmd ∧ ∀ i, r ≠ .gpio i)) :
    busWrite width addr v s = raiseFault .badAccess s := by
  obtain nothing | ⟨w, pram⟩ | ⟨r, reg, cmd, gpio⟩ := h
  · simp [busWrite, nothing]
  · simp [busWrite, pram]
  · rw [busWrite_reg reg, writeReg_bad cmd gpio]

/-- Settles O30: a bad access records the fault, which takes no effect while HALTED. -/
theorem badAccessesFault : Obligations.BadAccessesFault := by
  refine fun s width addr v => ⟨fun bad => ⟨fun running => ?_, fun halted => ?_⟩, fun bad => ⟨fun running => ?_, fun halted => ?_⟩⟩
  · rw [busRead_bad bad, badRead, raiseFault, State.recordFault_eq (s := s.returnRead 0#32) running]
    rfl
  · rw [busRead_bad bad, badRead, raiseFault, State.recordFault_halted_eq (s := s.returnRead 0#32) halted]
    rfl
  · rw [busWrite_bad bad, raiseFault, State.recordFault_eq running]
  · rw [busWrite_bad bad, raiseFault, State.recordFault_halted_eq halted]

/-- Settles O32: a read of several bytes has no value as soon as one has none. -/
theorem uninitialisedReadsMarkModelFault : Obligations.UninitialisedReadsMarkModelFault := by
  refine fun s width addr => ⟨fun w target missing => ?_, fun k target missing => ?_⟩
  · have missing : s.pram w = none := by
      rw [State.pram, Memory.readWord, (Memory.readBytes_eq_none_iff _ _ _).mpr missing]
      rfl
    simp [busRead, target, missing, returnValue, raiseModelFault]
  · have missing : Memory.readBytes s.mem (frameAddr k) width.bytes = none :=
      (Memory.readBytes_eq_none_iff _ _ _).mpr (by simpa only [frameAddr, Nat.add_assoc] using missing)
    simp [busRead, target, missing, returnValue, raiseModelFault]

/-! ### Commands that take no effect -/

/-- The operations a command word decodes to (R109). -/
theorem decodeCmd_cases {w : Word} {i : Instr} (h : decodeCmd w = .ok i) :
    i = .nop ∨ (∃ nch ngpio, i = .init nch ngpio) ∨ (∃ p, i = .load p) ∨ i = .prime ∨ i = .arm ∨ i = .start ∨
      ∃ ch, i = .wait ch := by
  unfold decodeCmd unreserved at h
  split at h <;> (try split at h) <;> cases h <;> simp

/-- A command other than NOP and INIT needs INIT: it stands behind the guard (R32, R111). -/
theorem exec_guarded {w : Word} {i : Instr} (h : decodeCmd w = .ok i) (notNop : i ≠ .nop)
    (notInit : ∀ nch ngpio, i ≠ .init nch ngpio) (s : State) : ∃ run, exec i s = guardReady s run := by
  obtain rfl | ⟨nch, ngpio, rfl⟩ | ⟨p, rfl⟩ | rfl | rfl | rfl | ⟨ch, rfl⟩ := decodeCmd_cases h
  · exact absurd rfl notNop
  · exact absurd rfl (notInit nch ngpio)
  all_goals exact ⟨_, rfl⟩

theorem State.halted_eq_true {s : State} : s.halted = true ↔ s.fault ≠ none := by
  rw [← Bool.not_eq_false, ne_eq, ← State.halted_eq_false]

theorem exec_halted {w : Word} {i : Instr} (h : decodeCmd w = .ok i) {s : State} (halted : s.halted = true) :
    exec i s = .next s := by
  obtain rfl | ⟨nch, ngpio, rfl⟩ | ⟨p, rfl⟩ | rfl | rfl | rfl | ⟨ch, rfl⟩ := decodeCmd_cases h <;>
    exact guardHalted_halted halted _

theorem writeCommand_ok {w : Word} {i : Instr} (h : decode (.cmd w) = .ok i) (s : State) : writeCommand w s = exec i s := by
  simp [writeCommand, h]

theorem writeCommand_illegal {w : Word} (h : decode (.cmd w) = .error .illegalCommand) (s : State) :
    writeCommand w s = guardHalted s (raiseFault .illegalCommand s) := by
  simp [writeCommand, h]

/-- A HALTED engine ignores a write to CMD (R111, R210). -/
theorem writeCommand_halted {s : State} (halted : s.halted = true) (w : Word) : writeCommand w s = .next s := by
  cases h : decode (.cmd w) with
  | ok i => rw [writeCommand_ok h, exec_halted h halted]
  | error e => cases e; rw [writeCommand_illegal h, guardHalted_halted halted]

/-- Settles O23: both writes stand behind the guard. -/
theorem haltedEngineIgnoresWrites : Obligations.HaltedEngineIgnoresWrites := fun s w i fault => by
  have halted := State.halted_eq_true.mpr fault
  exact ⟨writeCommand_halted halted w, guardHalted_halted halted _⟩

/-- Settles O34: the bank's offset, the one field of the word, and the two sides of the write's check of INIT_DONE. -/
theorem gpioWrites : Obligations.GpioWrites := by
  intro s i w
  refine ⟨(regAt_banks i).1, place_eq_append _ rfl, fun p => State.gpio_resetWith p i, fun running before => ?_,
    fun running done => ?_⟩
  · simp [writeReg, writeGpio, guardHalted_running running, before]
  · simp [writeReg, writeGpio, guardHalted_running running, done, raiseFault, State.recordFault_eq running]

/-! ### The host's step -/

theorem step_host {s : State} {turns : List Turn} (turn : s.schedule = .host :: turns) (unmarked : s.modelFault = none) :
    step s = hostStep { s with schedule := turns } := by
  simp [step, turnStep, State.nextTurn, State.takeTurn, turn, guardModelFault, unmarked]

theorem hostStep_free (s : State) (free : s.hold = none) {a : Access} {rest : List Access} (program : s.program = a :: rest) :
    hostStep s = busAccess a { s with program := rest } := by
  simp [hostStep, free, program]

theorem busTarget_cmd_iff {p : Params} {width : Width} {addr : BitVec 18} :
    busTarget p width addr = some (.reg .cmd) ↔ width = .word ∧ addr = 0x004#18 := by
  rw [busTarget_reg_iff, regAt_cmd_iff, ← BitVec.toNat_inj]
  constructor
  · exact fun ⟨word, _, _, at_cmd⟩ => ⟨word, at_cmd⟩
  · exact fun ⟨word, (at_cmd : addr.toNat = 4)⟩ => ⟨word, by omega, by omega, at_cmd⟩

theorem busWrite_cmd (w : Word) (s : State) : busWrite .word 0x004#18 w s = writeCommand w s :=
  busWrite_reg (busTarget_cmd_iff.mpr ⟨rfl, rfl⟩)

theorem busWrite_gpio (i : Fin 8) (w : Word) (s : State) :
    busWrite .word (BitVec.ofNat 18 (0x040 + 4 * i.val)) w s = writeReg (.gpio i) w s := by
  have offset : (BitVec.ofNat 18 (0x040 + 4 * i.val)).toNat = 0x040 + 4 * i.val :=
    (BitVec.toNat_ofNat _ _).trans (Nat.mod_eq_of_lt (by omega))
  refine busWrite_reg (busTarget_reg_iff.mpr ?_)
  rw [offset]
  exact ⟨rfl, by omega, by omega, (regAt_banks i).1⟩

/-- Settles O40: the host's step is the next bus access, and the two registers that take a write are reached at their offsets. -/
theorem hostStepRunsCommand : Obligations.HostStepRunsCommand := by
  refine ⟨fun s turns turn unmarked free => ?_, fun s i w => busWrite_gpio i w s⟩
  have issues : ∀ {a rest}, s.program = a :: rest → step s = busAccess a { s with schedule := turns, program := rest } :=
    fun program => (step_host turn unmarked).trans (hostStep_free { s with schedule := turns } free program)
  refine ⟨fun program => ?_, fun _ _ _ program => issues program, fun _ _ _ _ program => issues program,
    fun w rest program => ?_⟩
  · rw [step_host turn unmarked]
    simp [hostStep, free, program]
  · let issued : State := { s with schedule := turns, program := rest }
    have runs : step s = writeCommand w issued := (issues program).trans (busWrite_cmd w _)
    refine ⟨fun i decoded => runs.trans (writeCommand_ok decoded _), fun illegal (running : issued.fault = none) => ?_,
      fun (halted : issued.fault ≠ none) => ?_⟩
    · rw [runs, writeCommand_illegal illegal, guardHalted_running running, raiseFault, State.recordFault_eq running]
    · exact runs.trans (writeCommand_halted (State.halted_eq_true.mpr halted) w)

/-! ### INIT_DONE -/

theorem guardReady_before_init {s : State} (running : s.fault = none) (before : s.initDone = false) (run : Answer) :
    guardReady s run = .next { s with fault := some .notInitialized } := by
  simp [guardReady, guardHalted_running running, before, raiseFault, State.recordFault_eq running]

/-- Of the commands only a legal INIT sets INIT_DONE, in an engine that is not HALTED (R32, R181). -/
theorem exec_sets_initDone {w : Word} {i : Instr} (decoded : decodeCmd w = .ok i) {s t : State} (h : exec i s = .next t)
    (before : s.initDone = false) (after : t.initDone = true) :
    s.fault = none ∧ ∃ nch, i = .init nch nch ∧ LegalCount nch.toNat := by
  have unchanged : t.initDone ≠ s.initDone := by rw [before, after]; nofun
  by_cases running : s.fault = none
  · refine ⟨running, ?_⟩
    by_cases notInit : ∃ nch ngpio, i = .init nch ngpio
    · obtain ⟨nch, ngpio, rfl⟩ := notInit
      simp only [exec, execInit, guardHalted_running running, before] at h
      split at h
      · cases ‹false = true›
      · split at h
        · obtain ⟨count, rfl⟩ := (legalConfig_iff _ _).mp ‹_›
          exact ⟨ngpio, rfl, count⟩
        · cases h
          exact absurd (s.recordFault_initDone _) unchanged
    · exfalso
      by_cases nop : i = .nop
      · subst nop
        rw [show exec .nop s = guardHalted s (.next s) from rfl, guardHalted_running running] at h
        cases h
        exact unchanged rfl
      · obtain ⟨run, guarded⟩ := exec_guarded decoded nop (fun nch ngpio e => notInit ⟨nch, ngpio, e⟩) s
        rw [guarded, guardReady_before_init running before] at h
        cases h
        exact unchanged rfl
  · rw [exec_halted decoded (State.halted_eq_true.mpr running)] at h
    cases h
    exact absurd rfl unchanged

theorem writeGpio_initDone {i : Fin 8} {w : Word} {s t : State} (h : writeGpio i w s = .next t) : t.initDone = s.initDone := by
  obtain rfl | ⟨-, h⟩ := guardHalted_next h
  · rfl
  · split at h <;> cases h
    · exact s.recordFault_initDone _
    · rfl

theorem busRead_initDone {width : Width} {addr : BitVec 18} {s t : State} (h : busRead width addr s = .next t) :
    t.initDone = s.initDone := by
  have returned : ∀ {v : Option Word}, returnValue v s = .next t → t.initDone = s.initDone := fun {v} h => by
    cases v <;> (cases h; rfl)
  unfold busRead at h
  split at h
  · cases h
    exact State.recordFault_initDone _ _
  · cases h
    rfl
  · exact returned h
  · exact returned h

theorem busWrite_initDone {width : Width} {addr : BitVec 18} {v : Word} {s t : State}
    (notCmd : busTarget s.cfg width addr ≠ some (.reg .cmd)) (h : busWrite width addr v s = .next t) :
    t.initDone = s.initDone := by
  unfold busWrite at h
  split at h
  · cases h
    exact s.recordFault_initDone _
  · unfold writeReg at h
    split at h
    · exact absurd ‹_› notCmd
    · exact writeGpio_initDone h
    · cases h
      exact s.recordFault_initDone _
  · cases h
    exact s.recordFault_initDone _
  · cases h
    rfl

/-- Of the bus accesses only a write of a legal INIT to CMD sets INIT_DONE (R32). -/
theorem busAccess_sets_initDone {a : Access} {s t : State} (h : busAccess a s = .next t) (before : s.initDone = false)
    (after : t.initDone = true) :
    s.fault = none ∧ ∃ w nch, a = .write .word 0x004#18 w ∧ decode (.cmd w) = .ok (.init nch nch) ∧
      LegalCount nch.toNat := by
  have unchanged : t.initDone ≠ s.initDone := by rw [before, after]; nofun
  cases a with
  | read width addr => exact absurd (busRead_initDone h) unchanged
  | write width addr w =>
    by_cases target : busTarget s.cfg width addr = some (.reg .cmd)
    · obtain ⟨rfl, rfl⟩ := busTarget_cmd_iff.mp target
      have h : writeCommand w s = .next t := (busWrite_cmd w s).symm.trans h
      cases decoded : decode (.cmd w) with
      | ok i =>
        rw [writeCommand_ok decoded] at h
        obtain ⟨running, nch, rfl, count⟩ := exec_sets_initDone decoded h before after
        exact ⟨running, w, nch, rfl, decoded, count⟩
      | error e =>
        cases e
        rw [writeCommand_illegal decoded] at h
        obtain rfl | ⟨-, h⟩ := guardHalted_next h
        · exact absurd rfl unchanged
        · cases h
          exact absurd (s.recordFault_initDone _) unchanged
    · exact absurd (busWrite_initDone target h) unchanged

/-- Of the host's steps only the issue of such an access sets INIT_DONE. -/
theorem hostStep_sets_initDone {s t : State} (h : hostStep s = .next t) (before : s.initDone = false)
    (after : t.initDone = true) :
    s.fault = none ∧ ∃ w rest nch, s.program = .write .word 0x004#18 w :: rest ∧
      decode (.cmd w) = .ok (.init nch nch) ∧ LegalCount nch.toNat := by
  have unchanged : t.initDone ≠ s.initDone := by rw [before, after]; nofun
  unfold hostStep at h
  split at h
  · split at h <;> (cases h; exact absurd rfl unchanged)
  · split at h
    · cases h
      exact absurd rfl unchanged
    · next a rest program =>
      obtain ⟨running, w, nch, rfl, decoded, count⟩ := busAccess_sets_initDone h before after
      exact ⟨running, w, rest, nch, program, decoded, count⟩

theorem CommandEffect.initDone {s t : State} (h : CommandEffect s t) (done : s.initDone = true) : t.initDone = true := by
  cases h with
  | init => rfl
  | load | arm | start => exact done
  | prime => rw [s.primeAll_initDone, done]
  | wait ch => obtain ⟨e, -⟩ | ⟨e, -⟩ := s.awaitSignal_cases ch <;> (rw [e]; exact done)

/-- No agent clears INIT_DONE, and no agent but the host sets it. -/
theorem AgentEffect.initDone {turn : Turn} {s t : State} (h : AgentEffect turn s t)
    (noReset : ∀ program, turn ≠ .reset program) :
    (s.initDone = true → t.initDone = true) ∧ (turn ≠ .host → t.initDone = s.initDone) := by
  cases h with
  | pass alike | marked alike => exact ⟨fun done => alike.initDone.trans done, fun _ => alike.initDone⟩
  | returned | gpio | frame => exact ⟨id, fun _ => rfl⟩
  | command effect => exact ⟨effect.initDone, fun other => absurd rfl other⟩
  | stop | send | serveThr | serveEnd => exact ⟨id, fun _ => rfl⟩
  | reset program => exact absurd rfl (noReset program)

/-- Settles O22: only the host's write of a legal INIT sets INIT_DONE, only reset clears it, and the other commands ask for it. -/
theorem initDoneUntilReset : Obligations.InitDoneUntilReset := by
  refine ⟨fun _ => rfl, fun s t taken noReset => ?_, fun s i w running before decoded notNop notInit => ?_⟩
  · obtain ⟨s', like, effect⟩ := step_effect taken
    obtain ⟨stays, others⟩ := effect.initDone noReset
    rw [like.initDone] at stays others
    refine ⟨stays, fun before after => ?_⟩
    have host : s.nextTurn = .host := by_contra fun other => by
      rw [others other, before] at after
      cases after
    obtain ⟨program, turn, -⟩ | ⟨-, ⟨-, h⟩ | ⟨_, turn, -⟩ | ⟨_, turn, -⟩⟩ := step_cases taken
    · exact absurd turn (noReset program)
    · have set := hostStep_sets_initDone h (by rwa [s.takeTurn_initDone]) after
      rw [s.takeTurn_fault, s.takeTurn_program] at set
      exact ⟨host, set⟩
    all_goals exact absurd (host.symm.trans turn) nofun
  · obtain ⟨run, guarded⟩ := exec_guarded decoded notNop notInit s
    rw [guarded, guardReady_before_init running before]

/-! ### A threshold event can be lost -/

/-- V-TX-8 before its step 64: channel 0 of 8 sends 12 bytes, of which PRIME has encoded 8; no threshold event has been served, and
unit 0 is to fetch the last word of its region. -/
def beforeLoss : State :=
  let sending : State := ((State.resetWith Params.sample).initialise 8#4).updUnit 0 fun t =>
    { t with active := true, thrRaw := true, rdptr := 63#12, cnt := 31#12 }
  { sending.updChan 0 fun _ =>
      { enc := List.replicate 12 0#8, pos := 8#18, dirty := true, sel := false, bufValid := true, inFlight := true
        sig := .clear } with
    phase := .running, mem := Memory.writeWords [] (pramAddr 63) [pulse Params.sample false], schedule := [.unit 0] }

theorem beforeLoss_inv : beforeLoss.Inv :=
  ⟨by decide, by decide, by decide, by decide, by decide⟩

theorem beforeLoss_halfInv : beforeLoss.HalfInv := by decide

/-- The state after that step: the unit is at the top of its region, and its one raw bit stands for two events. -/
def afterLoss : State :=
  { beforeLoss with schedule := [] }.updUnit 0 fun t => t.sendData 64 ⟨true, 10#15⟩ ⟨false, 30#15⟩

theorem step_beforeLoss : step beforeLoss = .next afterLoss := rfl

/-- Settles O57: step 64 of V-TX-8. After it the unit reads half 0, which the selector names too, with its event still pending. -/
theorem thresholdEventCanBeLost : Obligations.ThresholdEventCanBeLost :=
  ⟨beforeLoss, afterLoss, beforeLoss_inv, beforeLoss_halfInv, rfl, rfl, step_beforeLoss, rfl, rfl, rfl, by decide⟩

end Sys2Proof.Machine
end

section
/-! PROOFS. The memories on the bus (spec/20_memory.md): what a legal read returns (R73, R78, R188), what a FRAME write stores (R74),
and how the regions of the configured channels divide the pulse memory (R76, R77). -/

namespace Sys2Proof.Machine

/-! ### Reads that return a value -/

section
variable {s : State} {width : Width} {addr : BitVec 18}

theorem busRead_reg {r : Reg} (target : busTarget s.cfg width addr = some (.reg r)) :
    busRead width addr s = .next (s.returnRead (s.readReg r)) := by
  simp [busRead, target]

theorem busRead_pram {w : Nat} {v : Word} (target : busTarget s.cfg width addr = some (.pram w)) (value : s.pram w = some v) :
    busRead width addr s = .next (s.returnRead v) := by
  simp [busRead, target, value, returnValue]

theorem busRead_frame {k : Nat} {bs : List Byte} (target : busTarget s.cfg width addr = some (.frame k))
    (bytes : Memory.readBytes s.mem (frameAddr k) width.bytes = some bs) :
    busRead width addr s = .next (s.returnRead (joinBytes bs)) := by
  simp [busRead, target, bytes, returnValue]

end

theorem frameAddr_add (k j : Nat) : frameAddr (k + j) = frameAddr k + j :=
  (Nat.add_assoc 0x10000 k j).symm

/-- Settles O31: one kind of target after the other; frame bytes that are read one by one are read together. -/
theorem readsChangeNothing : Obligations.ReadsChangeNothing := by
  refine fun s width addr => ⟨fun r target => busRead_reg target, fun w v target value => busRead_pram target value,
    fun k bs target length bytes => busRead_frame target ?_⟩
  exact (Memory.readBytes_eq_some_iff _ _ _ _).mpr ⟨length, by simpa only [frameAddr_add] using bytes⟩

/-! ### Writes to the frame memory -/

theorem busWrite_frame {s : State} {width : Width} {addr : BitVec 18} {k : Nat}
    (target : busTarget s.cfg width addr = some (.frame k)) (v : Word) :
    busWrite width addr v s =
      .next { s with mem := Memory.writeBytes s.mem (frameAddr k) (splitBytes width.bytes v) } := by
  simp [busWrite, target]

/-- Byte `j` of a value, once written, is read at the address plus `j` (R74). -/
theorem Memory.read_writeBytes_splitBytes (m : Memory) (a n : Nat) (v : Word) {j : Nat} (hj : j < n) :
    Memory.read (Memory.writeBytes m a (splitBytes n v)) (a + j) = some (bits v (8 * j) 8) := by
  rw [Memory.read_writeBytes, splitBytes_length, if_pos (by omega), Nat.add_sub_cancel_left, splitBytes_getElem? n v j hj]

theorem Memory.readBytes_writeBytes_splitBytes (m : Memory) (a n : Nat) (v : Word) :
    Memory.readBytes (Memory.writeBytes m a (splitBytes n v)) a n = some (splitBytes n v) :=
  (Memory.readBytes_eq_some_iff _ _ _ _).mpr ⟨splitBytes_length n v, fun j hj => by
    rw [Memory.read_writeBytes_splitBytes m a n v hj, splitBytes_getElem? n v j hj]⟩

/-- The low bytes of a value, put together again, have its low bits and no others (R74). -/
theorem getLsbD_joinBytes_splitBytes {i : Nat} (hi : i < 32) (n : Nat) (v : Word) :
    (joinBytes (splitBytes n v)).getLsbD i = (decide (i < 8 * n) && v.getLsbD i) := by
  induction n generalizing v i with
  | zero => simp [splitBytes, joinBytes]
  | succ n ih =>
    simp only [splitBytes, joinBytes, bits, BitVec.getLsbD_or, BitVec.getLsbD_setWidth, BitVec.getLsbD_extractLsb',
      BitVec.getLsbD_shiftLeft, hi]
    by_cases low : i < 8
    · simp [low, show i < 8 * (n + 1) by omega]
    · have shifted : i - 8 < 8 * n ↔ i < 8 * (n + 1) := by omega
      rw [ih (by omega), BitVec.getLsbD_ushiftRight, Nat.add_sub_of_le (by omega)]
      simp [low, shifted]

/-- The low bytes of a value, put together again, are the value cut to their width (R73, R74). -/
theorem joinBytes_splitBytes_eq_setWidth (n : Nat) (v : Word) :
    joinBytes (splitBytes n v) = (v.setWidth (8 * n)).setWidth 32 := by
  refine BitVec.eq_of_getLsbD_eq fun i hi => ?_
  rw [getLsbD_joinBytes_splitBytes hi, BitVec.getLsbD_setWidth, BitVec.getLsbD_setWidth]
  simp [hi]

/-- Settles O33: the bytes written are read one by one, and read together they are the value cut to the access's width. -/
theorem frameWritesAreLittleEndian : Obligations.FrameWritesAreLittleEndian := by
  refine fun s width addr v k target => ⟨_, busWrite_frame target v, fun j hj => ?_, fun a outside => ?_, ?_⟩
  · rw [frameAddr_add, Memory.read_writeBytes_splitBytes _ _ _ _ hj]
  · rw [Memory.read_writeBytes, splitBytes_length, if_neg (by omega)]
  · rw [← joinBytes_splitBytes_eq_setWidth]
    exact busRead_frame target (Memory.readBytes_writeBytes_splitBytes _ _ _ _)

/-! ### The regions of the pulse memory -/

/-- The pulse memory is as many regions of two halves as there are configured channels (R10, R77). -/
theorem State.Configured.pramWords_eq {s : State} (h : s.Configured) : s.cfg.pramWords = 2 * s.wp.toNat * s.chanCount := by
  obtain ⟨legal, -, wp, -⟩ := h
  rw [wp, Params.pramWords, totalBlocks]
  obtain ⟨-, -, ppb, -⟩ := s.cfg.valid
  rcases legal with e | e | e | e <;> rw [e] <;> omega

/-- The channel whose region holds a pulse word is the word's index divided by the regions' length (R76). -/
theorem State.Configured.mem_region_iff {s : State} (h : s.Configured) {i : Fin 8} (hi : i.val < s.chanCount) (w : Nat) :
    (s.base (s.unitOf i) ≤ w ∧ w < s.base (s.unitOf i) + s.regionWords (s.unitOf i)) ↔ w / (2 * s.wp.toNat) = i.val := by
  have pos : 0 < 2 * s.wp.toNat := Nat.mul_pos two_pos h.wp_pos
  rw [h.base_eq hi, h.regionWords_eq hi, Nat.div_eq_iff pos, Nat.mul_comm i.val]
  omega

/-- Settles O11: the region of word `w` is that of channel `w / (2 * WP)`, and of no other. -/
theorem regionsTilePulseMemory : Obligations.RegionsTilePulseMemory := by
  intro s conf w hw
  have inRange : w / (2 * s.wp.toNat) < s.chanCount := Nat.div_lt_of_lt_mul (conf.pramWords_eq ▸ hw)
  have count : s.chanCount ≤ 8 := by
    obtain ⟨legal, -⟩ := conf
    omega
  refine ⟨⟨w / (2 * s.wp.toNat), by omega⟩, ⟨inRange, (conf.mem_region_iff inRange w).mpr rfl⟩, fun j ⟨hj, region⟩ => ?_⟩
  exact Fin.ext ((conf.mem_region_iff hj w).mp region).symm

end Sys2Proof.Machine
end

section
/-! PROOFS. The encodings (spec/30_encoding.md): the fields of a word that is written as fields one after the other, that decoding
inverts encoding (R100 to R110), and which words each format admits (R106, R107, R109, R110). -/

namespace Sys2Proof

/-! ### The fields of a word -/

/-- A field of a field. -/
theorem bits_bits {n : Nat} (w : BitVec n) {lo len lo' len' : Nat} (h : lo' + len' ≤ len) :
    bits (bits w lo len) lo' len' = bits w (lo + lo') len' := by
  refine BitVec.eq_of_getLsbD_eq fun k hk => ?_
  simp [bits, Nat.add_assoc, show lo' + k < len by omega]

/-- A word written as two fields has those fields, and no other word has them. -/
theorem append_eq_iff {m n : Nat} {a : BitVec m} {b : BitVec n} {w : BitVec (m + n)} :
    a ++ b = w ↔ bits w n m = a ∧ bits w 0 n = b := by
  constructor
  · rintro rfl
    exact ⟨BitVec.extractLsb'_append_eq_left, BitVec.extractLsb'_append_eq_right⟩
  · rintro ⟨rfl, rfl⟩
    exact (BitVec.extractLsb'_append_extractLsb'_eq_extractLsb' (Nat.zero_add n).symm).trans BitVec.extractLsb'_eq_self

theorem append_append_eq_iff {l m n : Nat} {a : BitVec l} {b : BitVec m} {c : BitVec n} {w : BitVec (l + m + n)} :
    a ++ b ++ c = w ↔ bits w (n + m) l = a ∧ bits w n m = b ∧ bits w 0 n = c := by
  rw [append_eq_iff, eq_comm, append_eq_iff, bits_bits _ (by omega), bits_bits _ (by omega), Nat.add_zero, and_assoc]

theorem append_append_append_eq_iff {k l m n : Nat} {a : BitVec k} {b : BitVec l} {c : BitVec m} {d : BitVec n}
    {w : BitVec (k + l + m + n)} :
    a ++ b ++ c ++ d = w ↔ bits w (n + (m + l)) k = a ∧ bits w (n + m) l = b ∧ bits w n m = c ∧ bits w 0 n = d := by
  rw [append_eq_iff, eq_comm, append_append_eq_iff, bits_bits _ (by omega), bits_bits _ (by omega), bits_bits _ (by omega),
    Nat.add_zero, and_assoc, and_assoc]

/-- A field is known as far as a mask covers it. -/
theorem bits_of_masked {n lo len : Nat} {w mask pattern : BitVec n} (masked : w &&& mask = pattern)
    (covered : bits mask lo len = BitVec.allOnes len) : bits w lo len = bits pattern lo len := by
  rw [← masked, bits, bits, BitVec.extractLsb'_and, show mask.extractLsb' lo len = _ from covered, BitVec.and_allOnes]

theorem ofBool_bit {n : Nat} (w : BitVec n) (k : Nat) : BitVec.ofBool (bit w k) = bits w k 1 := by
  refine BitVec.eq_of_getLsbD_eq fun j hj => ?_
  obtain rfl : j = 0 := by omega
  simp [bit, bits]

/-! ### Commands -/

theorem unreserved_eq_ok_iff {n : Nat} {reserved : BitVec n} {i j : Instr} :
    unreserved reserved i = .ok j ↔ reserved = 0#n ∧ i = j := by
  unfold unreserved
  split <;> simp [*]

/-- What the word of a command says of its fields (R101 to R104, R109). -/
theorem encode_command_iff {w : Word} :
    (encode .nop = .cmd w ↔ bits w 28 4 = 0x0#4 ∧ bits w 0 28 = 0#28) ∧
    (∀ nch ngpio, encode (.init nch ngpio) = .cmd w ↔
      bits w 28 4 = 0x1#4 ∧ bits w 8 20 = 0#20 ∧ bits w 4 4 = ngpio ∧ bits w 0 4 = nch) ∧
    (∀ p, encode (.load p) = .cmd w ↔ bits w 28 4 = 0x2#4 ∧ bits w 16 12 = 0#12 ∧ bits w 0 16 = p) ∧
    (encode .prime = .cmd w ↔ bits w 28 4 = 0x3#4 ∧ bits w 0 28 = 0#28) ∧
    (encode .arm = .cmd w ↔ bits w 28 4 = 0x4#4 ∧ bits w 0 28 = 0#28) ∧
    (encode .start = .cmd w ↔ bits w 28 4 = 0x5#4 ∧ bits w 0 28 = 0#28) ∧
    (∀ ch : Fin 8, encode (.wait ch) = .cmd w ↔
      bits w 28 4 = 0x6#4 ∧ bits w 3 25 = 0#25 ∧ bits w 0 3 = BitVec.ofNat 3 ch.val) := by
  simp only [encode, RawWord.cmd.injEq]
  exact ⟨append_eq_iff, fun _ _ => append_append_append_eq_iff, fun _ => append_append_eq_iff, append_eq_iff, append_eq_iff,
    append_eq_iff, fun _ => append_append_eq_iff⟩

/-- A command word decodes to the operation whose word it is, and to no other (R109 to R111). -/
theorem decodeCmd_eq_ok_iff {w : Word} {i : Instr} : decodeCmd w = .ok i ↔ encode i = .cmd w := by
  obtain ⟨nop, init, load, prime, arm, start, wait⟩ := encode_command_iff (w := w)
  constructor
  · intro h
    unfold decodeCmd at h
    split at h
    case h_8 => cases h
    all_goals
      rename_i op
      obtain ⟨reserved, rfl⟩ := unreserved_eq_ok_iff.mp h
    · exact nop.mpr ⟨BitVec.eq_of_toNat_eq op, reserved⟩
    · exact (init _ _).mpr ⟨BitVec.eq_of_toNat_eq op, reserved, rfl, rfl⟩
    · exact (load _).mpr ⟨BitVec.eq_of_toNat_eq op, reserved, rfl⟩
    · exact prime.mpr ⟨BitVec.eq_of_toNat_eq op, reserved⟩
    · exact arm.mpr ⟨BitVec.eq_of_toNat_eq op, reserved⟩
    · exact start.mpr ⟨BitVec.eq_of_toNat_eq op, reserved⟩
    · exact (wait _).mpr ⟨BitVec.eq_of_toNat_eq op, reserved, by simp⟩
  · intro h
    cases i
    case pulseData | pulseEnd | pulseHalf | eventThr | eventEnd => cases h
    all_goals
      simp only [nop, init, load, prime, arm, start, wait] at h
      simp [decodeCmd, unreserved, h]

theorem decodeCmd_wellFormed {w : Word} {i : Instr} (h : decodeCmd w = .ok i) : i.WellFormed := by
  obtain rfl | ⟨nch, ngpio, rfl⟩ | ⟨p, rfl⟩ | rfl | rfl | rfl | ⟨ch, rfl⟩ := Machine.decodeCmd_cases h <;> rfl

/-! ### Pulse words -/

/-- A pulse word is its four fields, packed (R105). -/
theorem packPulse_fields (w : Word) : packPulse (bit w 15) (bits w 0 15) (bit w 31) (bits w 16 15) = w :=
  append_append_append_eq_iff.mpr ⟨(ofBool_bit w 31).symm, rfl, (ofBool_bit w 15).symm, rfl⟩

/-- The class of a pulse word (R106). -/
theorem decodePulse_end {w : Word} (h0 : bits w 0 15 = 0#15) : decodePulse w = .pulseEnd (bits w 15 17) :=
  if_pos h0

theorem decodePulse_half {w : Word} (h0 : bits w 0 15 ≠ 0#15) (h1 : bits w 16 15 = 0#15) :
    decodePulse w = .pulseHalf (bit w 15) (bits w 0 15) (bit w 31) :=
  (if_neg h0).trans (if_pos h1)

theorem decodePulse_data {w : Word} (h0 : bits w 0 15 ≠ 0#15) (h1 : bits w 16 15 ≠ 0#15) :
    decodePulse w = .pulseData (bit w 15) (bits w 0 15) (bit w 31) (bits w 16 15) :=
  (if_neg h0).trans (if_neg h1)

theorem encode_pulseEnd_iff {w : Word} {ignored : BitVec 17} :
    encode (.pulseEnd ignored) = .pulse w ↔ bits w 15 17 = ignored ∧ bits w 0 15 = 0#15 := by
  simp only [encode, RawWord.pulse.injEq]
  exact append_eq_iff

theorem decodePulse_packPulse {lvl0 lvl1 : Bool} {dur0 dur1 : BitVec 15} (h0 : dur0 ≠ 0#15) (h1 : dur1 ≠ 0#15) :
    decodePulse (packPulse lvl0 dur0 lvl1 dur1) = .pulseData lvl0 dur0 lvl1 dur1 := by
  rw [decodePulse_data] <;> simp [h0, h1]

theorem decodePulse_packPulse_zero {lvl0 lvl1 : Bool} {dur0 : BitVec 15} (h0 : dur0 ≠ 0#15) :
    decodePulse (packPulse lvl0 dur0 lvl1 0#15) = .pulseHalf lvl0 dur0 lvl1 := by
  rw [decodePulse_half] <;> simp [h0]

/-- A pulse word decodes to the well-formed operation whose word it is, and to no other (R105, R106). -/
theorem decodePulse_eq_iff {w : Word} {i : Instr} : decodePulse w = i ↔ i.WellFormed ∧ encode i = .pulse w := by
  constructor
  · rintro rfl
    by_cases h0 : bits w 0 15 = 0#15
    · rw [decodePulse_end h0]
      exact ⟨rfl, encode_pulseEnd_iff.mpr ⟨rfl, h0⟩⟩
    · by_cases h1 : bits w 16 15 = 0#15
      · rw [decodePulse_half h0 h1]
        refine ⟨bne_iff_ne.mpr h0, ?_⟩
        rw [encode, ← h1, packPulse_fields]
      · rw [decodePulse_data h0 h1]
        exact ⟨by simp [Instr.WellFormed, Instr.wellFormed, h0, h1], congrArg _ (packPulse_fields w)⟩
  · rintro ⟨wf, word⟩
    cases i with
    | pulseEnd ignored =>
      obtain ⟨rfl, h0⟩ := encode_pulseEnd_iff.mp word
      exact decodePulse_end h0
    | pulseHalf lvl0 dur0 lvl1 =>
      cases word
      exact decodePulse_packPulse_zero (bne_iff_ne.mp wf)
    | pulseData lvl0 dur0 lvl1 dur1 =>
      cases word
      obtain ⟨h0, h1⟩ := (Bool.and_eq_true _ _).mp wf
      exact decodePulse_packPulse (bne_iff_ne.mp h0) (bne_iff_ne.mp h1)
    | _ => cases word

/-! ### Events -/

/-- The number of an event is its kind and its unit, packed (R108). -/
theorem packEvent_fields (e : BitVec 4) : packEvent (bit e 3) (bits e 0 3).toFin = e := by
  revert e
  decide

theorem decodeEvent_packEvent (isEnd : Bool) (u : Fin 8) :
    decodeEvent (packEvent isEnd u) = if isEnd then .eventEnd u else .eventThr u := by
  revert isEnd u
  decide

/-- An event number decodes to the event whose number it is, and to no other (R108). -/
theorem decodeEvent_eq_iff {e : BitVec 4} {i : Instr} : decodeEvent e = i ↔ encode i = .event e := by
  constructor
  · rintro rfl
    unfold decodeEvent
    split <;> rename_i kind
    · rw [encode, ← kind, packEvent_fields]
    · rw [encode, ← Bool.eq_false_of_not_eq_true kind, packEvent_fields]
  · intro number
    cases i with
    | eventThr u => cases number; exact decodeEvent_packEvent false u
    | eventEnd u => cases number; exact decodeEvent_packEvent true u
    | _ => cases number

theorem decodeEvent_wellFormed (e : BitVec 4) : (decodeEvent e).WellFormed := by
  unfold decodeEvent
  split <;> rfl

/-! ### Decoding inverts encoding -/

/-- A word decodes, where it is found, to the well-formed operation whose word it is there, and to no other (R100 to R110). -/
theorem decode_eq_ok_iff {r : RawWord} {i : Instr} : decode r = .ok i ↔ i.WellFormed ∧ encode i = r := by
  cases r with
  | cmd w =>
    exact ⟨fun h => ⟨decodeCmd_wellFormed h, decodeCmd_eq_ok_iff.mp h⟩, fun ⟨_, word⟩ => decodeCmd_eq_ok_iff.mpr word⟩
  | pulse w => rw [decode, Decoded.ok.injEq, decodePulse_eq_iff]
  | event e =>
    rw [decode, Decoded.ok.injEq]
    exact ⟨fun h => ⟨h ▸ decodeEvent_wellFormed e, decodeEvent_eq_iff.mp h⟩, fun ⟨_, number⟩ => decodeEvent_eq_iff.mpr number⟩

/-- Settles O2: the word of an operation is the word of that operation. -/
theorem decodeOfEncode : Obligations.DecodeOfEncode :=
  fun _ wf => decode_eq_ok_iff.mpr ⟨wf, rfl⟩

/-- Settles O3: the other direction of the same equivalence. -/
theorem encodeOfDecode : Obligations.EncodeOfDecode :=
  fun _ _ => decode_eq_ok_iff.mp

/-! ### Legal commands -/

/-- Settles O4: the word of a command has the fixed bits of its row of the opcode map, and these fix the opcode and the reserved
bits that the decoder asks for. -/
theorem legalCommandsAreThePatterns : Obligations.LegalCommandsAreThePatterns := by
  intro w
  constructor
  · rintro ⟨i, decoded⟩
    have word := decodeCmd_eq_ok_iff.mp decoded
    obtain rfl | ⟨nch, ngpio, rfl⟩ | ⟨p, rfl⟩ | rfl | rfl | rfl | ⟨ch, rfl⟩ := Machine.decodeCmd_cases decoded <;> cases word
    · exact .inl rfl
    · exact .inr (.inl (Laws.TableRow.init nch ngpio rfl).1)
    · exact .inr (.inr (.inl (Laws.TableRow.load p rfl).1))
    · exact .inr (.inr (.inr (.inl rfl)))
    · exact .inr (.inr (.inr (.inr (.inl rfl))))
    · exact .inr (.inr (.inr (.inr (.inr (.inl rfl)))))
    · exact .inr (.inr (.inr (.inr (.inr (.inr (Laws.TableRow.wait ch rfl).1)))))
  · obtain ⟨-, init, load, -, -, -, wait⟩ := encode_command_iff (w := w)
    simp only [decodeCmd_eq_ok_iff]
    rintro (rfl | row | row | rfl | rfl | rfl | row)
    · exact ⟨.nop, rfl⟩
    · exact ⟨_, (init _ _).mpr ⟨bits_of_masked row rfl, bits_of_masked row rfl, rfl, rfl⟩⟩
    · exact ⟨_, (load _).mpr ⟨bits_of_masked row rfl, bits_of_masked row rfl, rfl⟩⟩
    · exact ⟨.prime, rfl⟩
    · exact ⟨.arm, rfl⟩
    · exact ⟨.start, rfl⟩
    · exact ⟨_, (wait (bits w 0 3).toFin).mpr ⟨bits_of_masked row rfl, bits_of_masked row rfl, by simp⟩⟩

/-- Settles O1: one word for each row of the opcode map, decoded. -/
theorem tableWordsDecode : Obligations.TableWordsDecode := by
  unfold Obligations.TableWordsDecode
  decide

/-- Settles O5: the two tests of the decoder. -/
theorem pulseWordsHaveOneClass : Obligations.PulseWordsHaveOneClass :=
  fun _ => ⟨decodePulse_end, fun ⟨h0, h1⟩ => decodePulse_data h0 h1, fun ⟨h0, h1⟩ => decodePulse_half h0 h1⟩

end Sys2Proof
end

section
/-! PROOFS. The words of a bit (R107), WAIT (R186), and that a placed word is what the next step runs (log 14). -/

namespace Sys2Proof.Machine

/-! ### The words of a bit -/

theorem durations_ne_zero (p : Params) :
    p.raw.t0h ≠ 0#15 ∧ p.raw.t0l ≠ 0#15 ∧ p.raw.t1h ≠ 0#15 ∧ p.raw.t1l ≠ 0#15 ∧ p.raw.treset ≠ 0#15 := by
  obtain ⟨-, -, -, t0h, t0l, t1h, t1l, treset, -⟩ := p.valid
  exact ⟨ne_of_apply_ne BitVec.toNat t0h.ne', ne_of_apply_ne BitVec.toNat t0l.ne', ne_of_apply_ne BitVec.toNat t1h.ne',
    ne_of_apply_ne BitVec.toNat t1l.ne', ne_of_apply_ne BitVec.toNat treset.ne'⟩

/-- Settles O6: every tick parameter is nonzero (R9), so both words are of class DATA. -/
theorem bitsBecomeDataWords : Obligations.BitsBecomeDataWords := by
  intro p b
  obtain ⟨t0h, t0l, t1h, t1l, treset⟩ := durations_ne_zero p
  have high : (if b then p.raw.t1h else p.raw.t0h) ≠ 0#15 := by cases b <;> assumption
  have low : (if b then p.raw.t1l else p.raw.t0l) ≠ 0#15 := by cases b <;> assumption
  exact ⟨decodePulse_packPulse high low, decodePulse_packPulse high treset⟩

/-! ### WAIT -/

/-- A release frees one channel, ends the render with the last buffer, and changes nothing else (R186). -/
theorem State.release_effect (s : State) (ch : Fin 8) :
    ∃ chans phase, s.release ch = { s with chans := chans, phase := phase, hold := none } ∧
      (∀ i : Fin 8, chans[i] = if i = ch then { s.chan i with sig := .none, bufValid := false } else s.chan i) ∧
      ((∀ i : Fin 8, i.val < s.chanCount → chans[i].bufValid = false) → phase = .idle) ∧
      ((∃ i : Fin 8, i.val < s.chanCount ∧ chans[i].bufValid = true) → phase = s.phase) := by
  refine ⟨(s.release ch).chans, (s.release ch).phase, rfl, s.chan_release ch, fun free => ?_, fun ⟨i, hi, valid⟩ => ?_⟩
  · rw [s.release_phase, if_pos ((State.allReleased_iff _).mpr free)]
  · rw [s.release_phase, if_neg]
    intro released
    exact absurd (valid.symm.trans ((State.allReleased_iff _).mp released i hi)) nofun

/-- WAIT of a ready engine, by its checks (R186). -/
theorem execWait_ready {s : State} (ready : s.Ready) (ch : Fin 8) :
    exec (.wait ch) s =
      if s.phase ≠ .running then raiseFault .sequenceError s
      else if s.chanCount ≤ ch.val then raiseFault .badChannel s
      else if (s.chan ch).bufValid then .next (s.awaitSignal ch)
      else raiseFault .sequenceError s :=
  guardReady_ready ready _

theorem raiseFault_running {s : State} (running : s.fault = none) (code : FaultCode) :
    raiseFault code s = .next { s with fault := some code } := by
  rw [raiseFault, State.recordFault_eq running]

/-- Settles O20: the word, the two outcomes of a WAIT past its checks, and the checks one after the other. -/
theorem waitReleasesChannel : Obligations.WaitReleasesChannel := by
  refine ⟨by decide, fun s ch ready running inRange valid => ?_, fun s ch fault before => ?_, fun s ch ready => ⟨fun other => ?_,
    fun running outside => ?_, fun running inRange free => ?_⟩⟩
  · have awaits : exec (.wait ch) s = .next (s.awaitSignal ch) := by
      simp [execWait_ready ready, running, inRange, valid]
    rw [awaits, ← running]
    obtain ⟨effect, given⟩ | ⟨effect, pending⟩ := s.awaitSignal_cases ch <;> rw [effect]
    · refine ⟨fun _ => ?_, fun pending => absurd given pending⟩
      obtain ⟨chans, phase, released, rest⟩ := s.release_effect ch
      exact ⟨chans, phase, congrArg _ released, rest⟩
    · exact ⟨fun given => absurd given pending, fun _ => rfl⟩
  · exact guardReady_before_init fault before _
  all_goals
    rw [execWait_ready ready, ← raiseFault_running ready.1]
  · simp [other]
  · simp [running, outside]
  · simp [running, inRange, free]

/-! ### Placed words -/

theorem step_unit {s : State} {u : Fin 8} {turns : List Turn} (turn : s.schedule = .unit u :: turns)
    (unmarked : s.modelFault = none) : step s = unitStep u { s with schedule := turns } := by
  simp [step, turnStep, State.nextTurn, State.takeTurn, turn, guardModelFault, unmarked]

theorem step_service {s : State} {u : Fin 8} {turns : List Turn} (turn : s.schedule = .service u :: turns)
    (unmarked : s.modelFault = none) : step s = serviceStep u { s with schedule := turns } := by
  simp [step, turnStep, State.nextTurn, State.takeTurn, turn, guardModelFault, unmarked]

/-- A command word placed is what the host writes to CMD next. -/
theorem step_placeCommand (s : State) {w : Word} {i : Instr} (decoded : decode (.cmd w) = .ok i) :
    step (s.placeCommand w) = exec i { s with modelFault := none, hold := none } :=
  calc step (s.placeCommand w)
    _ = hostStep { s.placeCommand w with schedule := s.schedule } := step_host rfl rfl
    _ = busAccess (.write .word 0x004#18 w) { s with modelFault := none, hold := none } := hostStep_free _ rfl rfl
    _ = writeCommand w { s with modelFault := none, hold := none } := busWrite_cmd w _
    _ = exec i { s with modelFault := none, hold := none } := writeCommand_ok decoded _

/-- An active unit with no underrun executes the word it fetches (R159). -/
theorem unitStep_fetched {s : State} {u : Fin 8} {w : Word} (active : (s.unit u).active = true) (inTime : s.underrun u = false)
    (fetched : s.pram (s.fetchIndex u) = some w) : unitStep u s = exec (decodePulse w) { s with txUnit := u } := by
  simp [unitStep, active, inTime, fetched]

theorem State.unit_placePulse (s : State) (w : Word) :
    (s.placePulse w).unit 0 = { s.unit 0 with active := true, thrRaw := false } := by
  rw [State.placePulse, State.unit_mk, State.units_getElem, State.unit_updUnit, if_pos rfl]
  rfl

/-- A pulse word placed is what unit 0 fetches next. -/
theorem step_placePulse (s : State) (w : Word) :
    step (s.placePulse w) = exec (decodePulse w) { s.placePulse w with schedule := s.schedule, txUnit := 0 } := by
  let fetching : State := { s.placePulse w with schedule := s.schedule }
  have unit : fetching.unit 0 = { s.unit 0 with active := true, thrRaw := false } := s.unit_placePulse w
  have index : fetching.fetchIndex 0 = s.fetchIndex 0 := by
    rw [State.fetchIndex, unit]
    rfl
  have fetched : fetching.pram (fetching.fetchIndex 0) = some w := by
    rw [index]
    exact Memory.readWord_writeWords (ws := [w]) Nat.one_pos
  calc step (s.placePulse w)
    _ = unitStep 0 fetching := step_unit rfl rfl
    _ = exec (decodePulse w) { fetching with txUnit := 0 } :=
      unitStep_fetched (by rw [unit]) (by simp [State.underrun, unit]) fetched

/-- The event that pends alone is the eligible one (R214). -/
theorem State.eligibleEvent_pend {s : State} {u : Fin 8} {t : TxUnit} {isEnd : Bool} (h : s.unit u = t.pend isEnd) :
    s.eligibleEvent u = some (packEvent isEnd u) := by
  rw [State.eligibleEvent, h]
  cases isEnd <;> rfl

theorem State.unit_placeEvent (s : State) (e : BitVec 4) :
    (s.placeEvent e).unit (bits e 0 3).toFin = (s.unit (bits e 0 3).toFin).pend (bit e 3) :=
  (State.unit_updUnit _ _ _ _).trans (if_pos rfl)

/-- An event placed is the one the service agent takes next. -/
theorem step_placeEvent (s : State) (e : BitVec 4) :
    step (s.placeEvent e) = exec (decodeEvent e) { s.placeEvent e with schedule := s.schedule } := by
  let pending : State := { s.placeEvent e with schedule := s.schedule }
  have eligible : pending.eligibleEvent (bits e 0 3).toFin = some e :=
    (State.eligibleEvent_pend (s.unit_placeEvent e)).trans (congrArg some (packEvent_fields e))
  calc step (s.placeEvent e)
    _ = serviceStep (bits e 0 3).toFin pending := step_service rfl rfl
    _ = exec (decodeEvent e) pending := by rw [serviceStep, eligible]

theorem decodeTableWord_eq_some_iff {nbits w : Nat} {i : Instr} :
    decodeTableWord nbits w = some i ↔ ∃ r, tableWord nbits w = some r ∧ decode r = .ok i := by
  rw [decodeTableWord, Option.bind_eq_some_iff]
  refine exists_congr fun r => and_congr_right fun _ => ?_
  cases decode r <;> simp [Decoded.instr?]

/-- Settles O43: whichever agent takes the word from its place, its step is the word's meaning. -/
theorem stepRunsPlacedWord : Obligations.StepRunsPlacedWord := by
  intro s nbits w i table
  obtain ⟨r, word, decoded⟩ := decodeTableWord_eq_some_iff.mp table
  rw [State.withFetchWord, word]
  cases r with
  | cmd w => exact ⟨_, step_placeCommand s decoded, rfl, rfl, rfl, rfl, rfl, rfl, rfl, rfl, rfl⟩
  | pulse w =>
    cases decoded
    exact ⟨_, step_placePulse s w, rfl, rfl, rfl, rfl, rfl, rfl, rfl, rfl, rfl⟩
  | event e =>
    cases decoded
    exact ⟨_, step_placeEvent s e, rfl, rfl, rfl, rfl, rfl, rfl, rfl, rfl, rfl⟩

end Sys2Proof.Machine
end

section
/-! PROOFS. The pulse encoder and LOAD (spec/40_encoder.md): a byte's words and a buffer's stream (R131, R134), the partition of the
pixels over the channels (R132, R133), and what LOAD does (R137). -/

namespace Sys2Proof.Machine

/-! ### The words of a byte -/

theorem bitOrder_getElem? {j : Nat} (hj : j < 8) : bitOrder[j]? = some (7 - j) := by
  revert j
  decide

theorem encodeByte_getElem? (p : Params) (x : Byte) (last : Bool) {j : Nat} (hj : j < 8) :
    (encodeByte p x last)[j]? =
      some (if last = true ∧ j = 7 then pulseLast p (bit x (7 - j)) else pulse p (bit x (7 - j))) := by
  have extended : (last && decide (7 - j = 0)) = true ↔ last = true ∧ j = 7 := by
    simp only [Bool.and_eq_true, decide_eq_true_eq]
    exact and_congr_right fun _ => by omega
  simp only [encodeByte, List.getElem?_map, bitOrder_getElem? hj, Option.map_some, extended]

/-- Settles O7: the bit positions are walked from 7 down to 0, and position 0 of a last byte is the extended one. -/
theorem bytesAreSentMsbFirst : Obligations.BytesAreSentMsbFirst :=
  fun p x last => ⟨encodeByte_length p x last, fun _ hj => encodeByte_getElem? p x last hj⟩

/-! ### The words of a buffer -/

/-- The words of a buffer from byte `a` on are the buffer's words from word `8 * a` on. -/
theorem encodeBytes_drop (p : Params) (len k : Nat) {xs : List Byte} {a : Nat} (ha : a ≤ xs.length) :
    encodeBytes p len (k + a) (xs.drop a) = (encodeBytes p len k xs).drop (8 * a) := by
  have cut := encodeBytes_append p len (xs.take a) (xs.drop a) k
  rw [List.take_append_drop, List.length_take_of_le ha] at cut
  rw [cut, List.drop_left' (by rw [encodeBytes_length, List.length_take_of_le ha])]

/-- The words of a buffer's first `n` bytes are the buffer's first `8 * n` words. -/
theorem encodeBytes_take (p : Params) (len k : Nat) {xs : List Byte} {n : Nat} (hn : n ≤ xs.length) :
    encodeBytes p len k (xs.take n) = (encodeBytes p len k xs).take (8 * n) := by
  have cut := encodeBytes_append p len (xs.take n) (xs.drop n) k
  rw [List.take_append_drop] at cut
  rw [cut, List.take_left' (by rw [encodeBytes_length, List.length_take_of_le hn])]

@[simp] theorem stream_length (p : Params) (enc : List Byte) : (stream p enc).length = 8 * enc.length :=
  encodeBytes_length p enc.length enc 0

/-- The words of `n` bytes of a buffer from byte `a` on are a stretch of its stream (R134, R150). -/
theorem encodeBytes_drop_take (p : Params) {enc : List Byte} {a n : Nat} (fits : a + n ≤ enc.length) :
    encodeBytes p enc.length a ((enc.drop a).take n) = ((stream p enc).drop (8 * a)).take (8 * n) := by
  rw [encodeBytes_take p _ _ (by rw [List.length_drop]; omega), stream,
    ← encodeBytes_drop p enc.length 0 (show a ≤ enc.length by omega), Nat.zero_add]

/-- Word `8 * k + j` of a stream is word `j` of byte `k` (R134). -/
theorem stream_getElem? (p : Params) {enc : List Byte} {k : Nat} {x : Byte} (byte : enc[k]? = some x) {j : Nat} (hj : j < 8) :
    (stream p enc)[8 * k + j]? = (encodeByte p x (decide (k + 1 = enc.length)))[j]? := by
  obtain ⟨inRange, rfl⟩ := List.getElem?_eq_some_iff.mp byte
  rw [← List.getElem?_drop, stream, ← encodeBytes_drop p enc.length 0 inRange.le, Nat.zero_add,
    List.drop_eq_getElem_cons inRange, encodeBytes, List.getElem?_append_left (by rwa [encodeByte_length])]

/-- The durations of a word of class DATA are nonzero (R106). -/
abbrev IsData (w : Word) : Prop := bits w 0 15 ≠ 0#15 ∧ bits w 16 15 ≠ 0#15

theorem isData_pulse (p : Params) (b : Bool) : IsData (pulse p b) := by
  obtain ⟨t0h, t0l, t1h, t1l, -⟩ := durations_ne_zero p
  rw [IsData, pulse, bits_packPulse_dur0, bits_packPulse_dur1]
  cases b
  · exact ⟨t0h, t0l⟩
  · exact ⟨t1h, t1l⟩

theorem isData_pulseLast (p : Params) (b : Bool) : IsData (pulseLast p b) := by
  obtain ⟨t0h, -, t1h, -, treset⟩ := durations_ne_zero p
  rw [IsData, pulseLast, bits_packPulse_dur0, bits_packPulse_dur1]
  cases b
  · exact ⟨t0h, treset⟩
  · exact ⟨t1h, treset⟩

theorem isData_of_mem_encodeByte {p : Params} {x : Byte} {last : Bool} {w : Word} (h : w ∈ encodeByte p x last) : IsData w := by
  obtain ⟨k, -, rfl⟩ := List.mem_map.mp h
  split
  · exact isData_pulseLast p _
  · exact isData_pulse p _

theorem isData_of_mem_encodeBytes {p : Params} {len : Nat} {w : Word} {xs : List Byte} :
    ∀ {k : Nat}, w ∈ encodeBytes p len k xs → IsData w := by
  induction xs with
  | nil => exact fun h => absurd h List.not_mem_nil
  | cons x xs ih => exact fun h => (List.mem_append.mp h).elim isData_of_mem_encodeByte ih

theorem isData_of_mem_stream {p : Params} {enc : List Byte} {w : Word} (h : w ∈ stream p enc) : IsData w :=
  isData_of_mem_encodeBytes h

/-- Settles O8: a stream is its bytes' words one after the other, and each of them is a `pulse` or a `pulse_last`. -/
theorem streamKeepsArrayOrder : Obligations.StreamKeepsArrayOrder :=
  fun p enc => ⟨stream_length p enc, fun _ _ byte _ hj => stream_getElem? p byte hj, fun _ => isData_of_mem_stream⟩

/-! ### The partition -/

theorem partLo_count (pixels : Nat) {n : Nat} (hn : 0 < n) : partLo pixels n n = pixels :=
  Nat.mul_div_cancel_left pixels hn

/-- A sum's quotient is the sum of the quotients, or one more. -/
theorem add_div_cases (a b : Nat) {n : Nat} (hn : 0 < n) : (a + b) / n = a / n + b / n ∨ (a + b) / n = a / n + (b / n + 1) := by
  rw [Nat.add_div hn]
  split
  · exact .inr (Nat.add_assoc _ _ _)
  · exact .inl rfl

/-- Settles O9: the next bound adds `pixels` to the numerator, so its quotient grows by that of `pixels` or by one more. -/
theorem partitionIsExact : Obligations.PartitionIsExact := by
  intro pixels n hn
  refine ⟨?_, partLo_count pixels hn, fun i _ => ⟨rfl, ?_⟩⟩
  · rw [partLo, Nat.zero_mul, Nat.zero_div]
  · rw [partLo, Nat.succ_mul]
    exact add_div_cases (i * pixels) pixels hn

theorem partLo_mono (pixels n : Nat) {i j : Nat} (h : i ≤ j) : partLo pixels n i ≤ partLo pixels n j :=
  Nat.div_le_div_right (Nat.mul_le_mul_right pixels h)

theorem partLo_succ_le (pixels : Nat) {n i : Nat} (hi : i < n) : partLo pixels n (i + 1) ≤ pixels := by
  have le := partLo_mono pixels n (Nat.succ_le_of_lt hi)
  rwa [partLo_count pixels (by omega)] at le

/-! ### LOAD -/

section
variable {frame : List Byte} {pixels n i : Nat} (whole : frame.length = 3 * pixels) (hi : i < n)
include whole hi

/-- A channel gets three bytes for each of its pixels (R132, R133). -/
theorem chanBytes_length :
    (chanBytes frame pixels n i).length = 3 * partLo pixels n (i + 1) - 3 * partLo pixels n i := by
  have le := partLo_succ_le pixels hi
  rw [chanBytes, List.length_take, List.length_drop, whole]
  omega

/-- Byte `k` of a channel is byte `3 * lo + k` of the frame (R133). -/
theorem chanBytes_getElem? {k : Nat} (hk : k < (chanBytes frame pixels n i).length) :
    (chanBytes frame pixels n i)[k]? = frame[3 * partLo pixels n i + k]? := by
  rw [chanBytes_length whole hi] at hk
  rw [chanBytes, List.getElem?_take_of_lt (by omega), List.getElem?_drop]

end

theorem execLoad_ready {s : State} (ready : s.Ready) (p : BitVec 16) :
    exec (.load p) s =
      if s.phase ≠ .idle then raiseFault .sequenceError s
      else if s.cfg.raw.maxPixels < p.toNat then raiseFault .frameTooLarge s
      else
        match Memory.readBytes s.mem (frameAddr 0) (3 * p.toNat) with
        | none => raiseModelFault .uninitRead s
        | some frame => .next (s.loadFrame p.toNat frame) :=
  (guardReady_ready ready _).trans rfl

/-- What LOAD gives a configured channel of the frame it read (R133, R137). -/
theorem State.chan_loadFrame_effect (s : State) {pixels : Nat} {frame : List Byte}
    (bytes : Memory.readBytes s.mem (frameAddr 0) (3 * pixels) = some frame) {i : Fin 8} (hi : i.val < s.chanCount) :
    (s.loadFrame pixels frame).chan i =
      { s.chan i with
        enc := ((s.loadFrame pixels frame).chan i).enc, pos := 0#18, dirty := true, sel := false, bufValid := true } ∧
    ((s.loadFrame pixels frame).chan i).enc.length =
      3 * ((i.val + 1) * pixels / s.chanCount) - 3 * (i.val * pixels / s.chanCount) ∧
    ∀ k < ((s.loadFrame pixels frame).chan i).enc.length,
      ((s.loadFrame pixels frame).chan i).enc[k]? =
        Memory.read s.mem (frameAddr (3 * (i.val * pixels / s.chanCount) + k)) := by
  obtain ⟨whole, reads⟩ := (Memory.readBytes_eq_some_iff _ _ _ _).mp bytes
  have length := chanBytes_length whole hi
  have le := partLo_succ_le pixels hi
  rw [s.chan_loadFrame, if_pos hi]
  refine ⟨rfl, length, fun k hk => ?_⟩
  change (chanBytes frame pixels s.chanCount i.val)[k]? = _
  rw [chanBytes_getElem? whole hi hk, ← reads _ (by rw [Chan.loadBuffer, length] at hk; omega), ← frameAddr_add, Nat.zero_add]
  rfl

/-- Settles O16: the word, the buffers a frame read in full is cut into, and the checks one after the other. -/
theorem loadFillsBuffers : Obligations.LoadFillsBuffers := by
  refine ⟨fun p => decodeCmd_eq_ok_iff.mpr rfl, fun s p ready idle fits written => ?_, fun s p fault before => ?_,
    fun s p ready => ⟨fun other => ?_, fun idle large => ?_, fun idle fits missing => ?_⟩⟩
  · cases bytes : Memory.readBytes s.mem (frameAddr 0) (3 * p.toNat) with
    | none =>
      obtain ⟨k, hk, missing⟩ := (Memory.readBytes_eq_none_iff _ _ _).mp bytes
      rw [← frameAddr_add, Nat.zero_add] at missing
      exact absurd missing (written k hk)
    | some frame =>
      refine ⟨(s.loadFrame p.toNat frame).chans, ?_, fun i => ⟨fun out => ?_, s.chan_loadFrame_effect bytes⟩⟩
      · rw [execLoad_ready ready, if_neg (not_not.mpr idle), if_neg (Nat.not_lt.mpr fits), bytes]
        rfl
      · exact (s.chan_loadFrame _ _ i).trans (if_neg (Nat.not_lt.mpr out))
  · exact guardReady_before_init fault before _
  · rw [execLoad_ready ready, if_pos other, raiseFault_running ready.1]
  · rw [execLoad_ready ready, if_neg (not_not.mpr idle), if_pos large, raiseFault_running ready.1]
  · have bytes : Memory.readBytes s.mem (frameAddr 0) (3 * p.toNat) = none := by
      simpa only [Memory.readBytes_eq_none_iff, ← frameAddr_add, Nat.zero_add] using missing
    rw [execLoad_ready ready, if_neg (not_not.mpr idle), if_neg (Nat.not_lt.mpr fits), bytes]
    rfl

end Sys2Proof.Machine
end

section
/-! PROOFS. What a half-buffer write puts into a channel's region, and what it does to the channel's place in its stream (R134, R150,
R151, R156, R164, R167). -/

namespace Sys2Proof.Machine

/-! ### The words a channel sends -/

theorem State.stream_getElem?_eq_streamWord {s : State} {i : Fin 8} {j : Nat} (hj : j < 8 * (s.chan i).len) :
    (stream s.cfg (s.chan i).enc)[j]? = some (s.streamWord i j) := by
  have inRange : j < (stream s.cfg (s.chan i).enc).length := by rwa [stream_length]
  rw [State.streamWord, List.getElem?_eq_getElem inRange, Option.getD_some]

/-- Within the stream a channel sends words of class DATA (R134). -/
theorem State.isData_streamWord {s : State} {i : Fin 8} {j : Nat} (hj : j < 8 * (s.chan i).len) : IsData (s.streamWord i j) :=
  isData_of_mem_stream (List.mem_of_getElem? (State.stream_getElem?_eq_streamWord hj))

/-- After its stream a channel sends END words (R150). -/
theorem State.streamWord_end {s : State} {i : Fin 8} {j : Nat} (hj : 8 * (s.chan i).len ≤ j) : s.streamWord i j = 0#32 := by
  rw [State.streamWord, List.getElem?_eq_none (by rwa [stream_length]), Option.getD_none]

/-! ### The words of one half-buffer write -/

theorem State.Configured.halfBytes_pos {s : State} (conf : s.Configured) : 0 < s.halfBytes := by
  have pos := conf.wp_pos
  rw [conf.wp_eq] at pos
  omega

/-- So many halves of pulse words are eight for each byte of so many halves of bytes (R10). -/
theorem State.Configured.mul_wp {s : State} (conf : s.Configured) (copies : Nat) :
    copies * s.wp.toNat = 8 * (copies * s.halfBytes) := by
  rw [conf.wp_eq, Nat.mul_left_comm]

/-- A half that takes live data holds the stream from the channel's read position on, then END words (R150). -/
theorem State.dataWords_getElem? {s : State} {i : Fin 8} (pos : (s.chan i).pos.toNat ≤ (s.chan i).len)
    (whole : s.wp.toNat = 8 * s.halfBytes) {k : Nat} (hk : k < s.wp.toNat) :
    (s.dataWords (s.chan i))[k]? = some (s.streamWord i (8 * (s.chan i).pos.toNat + k)) := by
  have count : s.copyCount (s.chan i) = min s.halfBytes ((s.chan i).len - (s.chan i).pos.toNat) := rfl
  have fits : (s.chan i).pos.toNat + s.copyCount (s.chan i) ≤ (s.chan i).enc.length := by
    change _ ≤ (s.chan i).len
    omega
  have live : 8 * s.copyCount (s.chan i) ≤ 8 * (s.chan i).len - 8 * (s.chan i).pos.toNat := by omega
  rw [State.dataWords, show (s.chan i).len = (s.chan i).enc.length from rfl, encodeBytes_drop_take _ fits]
  have length : (((stream s.cfg (s.chan i).enc).drop (8 * (s.chan i).pos.toNat)).take
      (8 * s.copyCount (s.chan i))).length = 8 * s.copyCount (s.chan i) := by
    rw [List.length_take_of_le]
    rwa [List.length_drop, stream_length]
  by_cases data : k < 8 * s.copyCount (s.chan i)
  · rw [List.getElem?_append_left (by rwa [length]), List.getElem?_take_of_lt data, List.getElem?_drop,
      State.stream_getElem?_eq_streamWord (by omega)]
  · rw [List.getElem?_append_right (by rw [length]; omega), length, List.getElem?_replicate_of_lt (by omega),
      State.streamWord_end (by omega)]

/-- The half-buffer write that follows `copies` others writes the words of the stream that follow theirs, and the END word after the
stream (R150, R151). -/
theorem State.Copied.copyWords_getElem? {s : State} {i : Fin 8} {copies : Nat} (h : s.Copied i copies) (conf : s.Configured)
    {k : Nat} (hk : k < s.wp.toNat) (within : copies * s.wp.toNat + k ≤ 8 * (s.chan i).len) :
    (s.copyWords (s.chan i))[k]? = some (s.streamWord i (copies * s.wp.toNat + k)) := by
  obtain ⟨pos, -, dirty⟩ := h
  have half := conf.halfBytes_pos
  rw [conf.mul_wp] at within ⊢
  have reached : (s.chan i).pos.toNat = copies * s.halfBytes := by omega
  unfold State.copyWords
  split
  case isTrue live => rw [State.dataWords_getElem? live.le conf.wp_eq hk, reached]
  case isFalse ended =>
    have flush : (s.chan i).dirty = true := by
      rw [dirty, decide_eq_true_eq, Nat.sub_mul]
      rcases Nat.eq_zero_or_pos copies with none | some
      · exact .inl none
      · have := Nat.le_mul_of_pos_left s.halfBytes some
        exact .inr (by omega)
    rw [if_pos flush, List.getElem?_replicate_of_lt hk, State.streamWord_end (by omega)]

/-! ### The read position, the selector and DIRTY -/

theorem State.ChanInv.len_lt {s : State} (hs : s.ChanInv) (i : Fin 8) : (s.chan i).len < 2 ^ 18 := by
  obtain ⟨-, len, -⟩ := hs i
  obtain ⟨-, -, -, -, -, -, -, -, -, -, -, -, -, -, most⟩ := s.cfg.valid
  omega

/-- A half-buffer write leaves the buffers as they are. -/
@[simp] theorem State.copy_enc (s : State) (i j : Fin 8) : ((s.copy i).chan j).enc = (s.chan j).enc := by
  rw [s.chan_copy]
  split <;> rfl

/-- A half-buffer write is one more of them (R150, R167). -/
theorem State.Copied.copy {s : State} {i : Fin 8} {copies : Nat} (h : s.Copied i copies) (chans : s.ChanInv) :
    (s.copy i).Copied i (copies + 1) := by
  obtain ⟨pos, sel, dirty⟩ := h
  have small := chans.len_lt i
  have next : (copies + 1) * s.halfBytes = copies * s.halfBytes + s.halfBytes := Nat.succ_mul _ _
  have chan : (s.copy i).chan i = s.copiedChan (s.chan i) := by rw [s.chan_copy, if_pos rfl]
  refine ⟨?_, ?_, ?_⟩ <;> rw [chan]
  · change (s.copiedChan (s.chan i)).pos.toNat = min (s.chan i).len ((copies + 1) * s.halfBytes)
    simp only [State.copiedChan, State.copyCount]
    split
    · rw [BitVec.toNat_ofNat, Nat.mod_eq_of_lt (by omega)]
      omega
    · omega
  · simp only [State.copiedChan, sel]
    rw [← decide_not, decide_eq_decide]
    omega
  · change decide ((s.chan i).pos.toNat < (s.chan i).len) =
      decide (copies + 1 = 0 ∨ (copies + 1 - 1) * s.halfBytes < (s.chan i).len)
    rw [decide_eq_decide, Nat.add_sub_cancel]
    omega

/-! ### The pulse memory -/

/-- A half-buffer write's words are read back from its half. -/
theorem State.pram_copy_written (s : State) (i : Fin 8) {k : Nat} (hk : k < (s.copyWords (s.chan i)).length) :
    (s.copy i).pram (s.copyBase i + k) = (s.copyWords (s.chan i))[k]? := by
  have address : pramAddr (s.copyBase i + k) = pramAddr (s.copyBase i) + 4 * k := by
    simp only [pramAddr]
    omega
  rw [State.pram, s.copy_mem, address, Memory.readWord_writeWords hk]

/-- Outside its half a half-buffer write leaves the pulse memory as it is. -/
theorem State.pram_copy_outside (s : State) (i : Fin 8) {w : Nat}
    (outside : w < s.copyBase i ∨ s.copyBase i + (s.copyWords (s.chan i)).length ≤ w) : (s.copy i).pram w = s.pram w := by
  refine Memory.readWord_writeWords_outside ?_
  simp only [pramAddr]
  omega

/-- A half-buffer write fills a half of its channel's region. -/
theorem State.copyBase_bounds (s : State) (i : Fin 8) :
    s.base (s.unitOf i) ≤ s.copyBase i ∧
      s.copyBase i + (s.copyWords (s.chan i)).length ≤ s.base (s.unitOf i) + 2 * s.wp.toNat := by
  have half := s.copyWords_length_le (s.chan i)
  unfold State.copyBase
  split <;> omega

/-- Two configured channels' regions lie apart (R77). -/
theorem State.Configured.regions_apart {s : State} (conf : s.Configured) {i j : Fin 8} (hi : i.val < s.chanCount)
    (hj : j.val < s.chanCount) (other : j ≠ i) :
    s.base (s.unitOf i) + 2 * s.wp.toNat ≤ s.base (s.unitOf j) ∨ s.base (s.unitOf j) + 2 * s.wp.toNat ≤ s.base (s.unitOf i) := by
  have order : ∀ {a b : Nat}, a < b → 2 * s.wp.toNat * a + 2 * s.wp.toNat ≤ 2 * s.wp.toNat * b :=
    fun lt => Nat.mul_le_mul_left (2 * s.wp.toNat) (Nat.succ_le_of_lt lt)
  rw [conf.base_eq hi, conf.base_eq hj]
  rcases Nat.lt_or_gt_of_ne (Fin.val_ne_of_ne other) with before | after
  · exact .inr (order before)
  · exact .inl (order after)

/-- Word `k` of the `n`-th half written stands in the region's lower half if `n` is even, in the upper one if it is odd (R76, R164). -/
theorem place_in_region {half k : Nat} (hk : k < half) (n : Nat) : (n * half + k) % (2 * half) = n % 2 * half + k := by
  have cut : n * half + k = 2 * half * (n / 2) + (n % 2 * half + k) := by
    conv_lhs => rw [← Nat.div_add_mod n 2]
    ring
  have le : n % 2 * half ≤ 1 * half := Nat.mul_le_mul_right half (by omega)
  rw [cut, Nat.mul_add_mod, Nat.mod_eq_of_lt (by omega)]

/-! ### What leaves a channel's render as it is -/

/-- `t` has the sizes, the read position of channel `i` and the words of its region that `s` has. -/
structure State.KeepsStream (s t : State) (i : Fin 8) : Prop where
  cfg : t.cfg = s.cfg
  wp : t.wp = s.wp
  unitOf : t.unitOf i = s.unitOf i
  chan : t.chan i = { s.chan i with
    bufValid := (t.chan i).bufValid, inFlight := (t.chan i).inFlight, sig := (t.chan i).sig }
  pram : ∀ j < 2 * s.wp.toNat, t.pram (s.base (s.unitOf i) + j) = s.pram (s.base (s.unitOf i) + j)

section
variable {s t : State} {i : Fin 8} (kept : s.KeepsStream t i)
include kept

theorem State.KeepsStream.enc : (t.chan i).enc = (s.chan i).enc := by rw [kept.chan]

theorem State.KeepsStream.len : (t.chan i).len = (s.chan i).len := congrArg List.length kept.enc

theorem State.KeepsStream.halfBytes : t.halfBytes = s.halfBytes := by rw [State.halfBytes, kept.wp, State.halfBytes]

theorem State.KeepsStream.base : t.base (t.unitOf i) = s.base (s.unitOf i) := by
  rw [State.base, kept.cfg, kept.unitOf, State.base]

theorem State.KeepsStream.streamWord (j : Nat) : t.streamWord i j = s.streamWord i j := by
  rw [State.streamWord, kept.cfg, kept.enc, State.streamWord]

theorem State.KeepsStream.copied {copies : Nat} (h : s.Copied i copies) : t.Copied i copies := by
  obtain ⟨pos, sel, dirty⟩ := h
  refine ⟨?_, ?_, ?_⟩
  · rw [kept.len, kept.halfBytes, ← pos, kept.chan]
  · rw [← sel, kept.chan]
  · rw [kept.len, kept.halfBytes, ← dirty, kept.chan]

/-- The render's progress stands, or moves on by what the unit's record has gained. -/
theorem State.KeepsStream.progress {before : List WavePhase} {copies sent sent' : Nat} (h : s.Progress i before copies sent)
    (more : sent ≤ sent') (most : sent' ≤ 8 * (s.chan i).len)
    (wave : (t.unit (s.unitOf i)).wave = before ++ (expected s.cfg (s.chan i).enc).take (2 * sent')) :
    t.Progress i before copies sent' := by
  obtain ⟨copied, -, -, words⟩ := h
  refine ⟨kept.copied copied, by rwa [kept.len], by rwa [kept.unitOf, kept.cfg, kept.enc], fun j hj toSend written => ?_⟩
  rw [kept.len] at toSend
  rw [kept.wp] at written
  rw [kept.wp, kept.base, kept.streamWord, ← words j (more.trans hj) toSend written]
  rcases Nat.eq_zero_or_pos s.wp.toNat with zero | pos
  · simp [zero] at written
  · exact kept.pram _ (Nat.mod_lt _ (by omega))

/-- The render's progress stands while its unit's record does. -/
theorem State.KeepsStream.progress_same {before : List WavePhase} {copies sent : Nat} (h : s.Progress i before copies sent)
    (wave : (t.unit (s.unitOf i)).wave = (s.unit (s.unitOf i)).wave) : t.Progress i before copies sent :=
  kept.progress h le_rfl h.sent_le (wave.trans h.wave)

end

/-- A step that leaves the sizes, the mapping, the channel and the memory alone. -/
theorem State.KeepsStream.of_eq {s t : State} {i : Fin 8} (cfg : t.cfg = s.cfg) (wp : t.wp = s.wp)
    (unitOf : t.unitOf i = s.unitOf i) (mem : t.mem = s.mem)
    (chan : t.chan i = { s.chan i with
      bufValid := (t.chan i).bufValid, inFlight := (t.chan i).inFlight, sig := (t.chan i).sig }) : s.KeepsStream t i :=
  ⟨cfg, wp, unitOf, chan, fun _ _ => by rw [State.pram, mem, State.pram]⟩

/-- A half-buffer write of another channel (R77, R150). -/
theorem State.keepsStream_copy {s : State} (conf : s.Configured) {i j : Fin 8} (hi : i.val < s.chanCount)
    (hj : j.val < s.chanCount) (other : j ≠ i) : s.KeepsStream (s.copy j) i := by
  refine ⟨rfl, rfl, rfl, by rw [s.chan_copy, if_neg other.symm], fun k hk => s.pram_copy_outside j ?_⟩
  have apart := conf.regions_apart hi hj other
  have half := s.copyBase_bounds j
  omega

/-- A write of frame bytes: the frame memory lies above the pulse memory (R71). -/
theorem State.keepsStream_frame {s : State} (conf : s.Configured) {i : Fin 8} (hi : i.val < s.chanCount) (k : Nat)
    (bs : List Byte) : s.KeepsStream { s with mem := Memory.writeBytes s.mem (frameAddr k) bs } i := by
  refine ⟨rfl, rfl, rfl, rfl, fun j hj => Memory.readWord_congr fun b hb => ?_⟩
  have region := conf.region_end hi
  obtain ⟨-, most, -⟩ := s.cfg.valid
  simp only [Params.pramWords, totalBlocks] at region
  rw [Memory.read_writeBytes, if_neg]
  simp only [pramAddr, frameAddr]
  omega

/-! ### A channel's own half-buffer write -/

/-- A half-buffer write of a channel no more than one half of which is written and not yet sent: the words still to be fetched stay,
and the next half's are added (R150, R164). -/
theorem State.Progress.copy {s : State} {i : Fin 8} {before : List WavePhase} {copies sent : Nat}
    (h : s.Progress i before copies sent) (conf : s.Configured) (chans : s.ChanInv)
    (room : copies * s.wp.toNat ≤ sent + s.wp.toNat) : (s.copy i).Progress i before (copies + 1) sent := by
  obtain ⟨copied, sent_le, wave, words⟩ := h
  have enc := s.copy_enc i i
  have len : ((s.copy i).chan i).len = (s.chan i).len := congrArg List.length enc
  have place : s.copyBase i = s.base (s.unitOf i) + copies % 2 * s.wp.toNat := by
    rw [State.copyBase, copied.sel]
    rcases Nat.mod_two_eq_zero_or_one copies with e | e <;> simp [e]
  refine ⟨copied.copy chans, len ▸ sent_le, enc ▸ wave, fun j hj toSend written => ?_⟩
  rw [len] at toSend
  have word : (s.copy i).streamWord i j = s.streamWord i j := by rw [State.streamWord, enc]; rfl
  change j < (copies + 1) * s.wp.toNat at written
  change (s.copy i).pram (s.base (s.unitOf i) + j % (2 * s.wp.toNat)) = _
  rw [Nat.succ_mul] at written
  rw [word]
  by_cases old : j < copies * s.wp.toNat
  · rw [← words j hj toSend old]
    refine s.pram_copy_outside i ?_
    have half := s.copyWords_length_le (s.chan i)
    obtain ⟨c, rfl⟩ : ∃ c, copies = c + 1 := Nat.exists_eq_succ_of_ne_zero (by rintro rfl; simp at old)
    rw [Nat.succ_mul] at old room
    obtain ⟨k, rfl⟩ := Nat.exists_eq_add_of_le (show c * s.wp.toNat ≤ j by omega)
    rw [place, place_in_region (by omega)]
    rcases Nat.mod_two_eq_zero_or_one c with e | e
    · rw [e, show (c + 1) % 2 = 1 by omega]
      omega
    · rw [e, show (c + 1) % 2 = 0 by omega]
      omega
  · obtain ⟨k, rfl⟩ := Nat.exists_eq_add_of_le (Nat.le_of_not_lt old)
    have hk : k < s.wp.toNat := by omega
    have here := copied.copyWords_getElem? conf hk toSend
    obtain ⟨inRange, -⟩ := List.getElem?_eq_some_iff.mp here
    rw [place_in_region hk, ← Nat.add_assoc, ← place, s.pram_copy_written i inRange, here]

/-! ### PRIME -/

/-- What a loop over the configured channels comes to, where its body at channel `i` takes `P` to `Q` and keeps both at every other
channel. -/
theorem State.forChannels_reaches {P Q : State → Prop} {s : State} {f : State → Fin 8 → State} {i : Fin 8}
    (hi : i.val < s.chanCount) (start : P s) (here : ∀ t, P t → Q (f t i))
    (others : ∀ t j, j ≠ i → j.val < s.chanCount → (P t → P (f t j)) ∧ (Q t → Q (f t j))) : Q (s.forChannels f) := by
  obtain ⟨l, r, cut⟩ := List.append_of_mem (mem_indices i)
  have nodup : indices.Nodup := by decide
  rw [cut, List.nodup_middle, List.nodup_cons, List.mem_append, not_or] at nodup
  obtain ⟨⟨left, right⟩, -⟩ := nodup
  rw [State.forChannels, cut, List.foldl_append, List.foldl_cons, if_pos hi]
  refine List.foldlRecOn r _ (here _ (List.foldlRecOn l _ start fun t ht j hj => ?_)) fun t ht j hj => ?_ <;> split
  · exact (others t j (fun e => left (e ▸ hj)) (by assumption)).1 ht
  · exact ht
  · exact (others t j (fun e => right (e ▸ hj)) (by assumption)).2 ht
  · exact ht

/-- A state inside the loop of PRIME, before or after the half-buffer writes of channel `i` (R156). -/
structure State.Priming (s : State) (count : Nat) (i : Fin 8) (before : List WavePhase) (copies : Nat) : Prop where
  configured : s.Configured
  chans : s.ChanInv
  count : s.chanCount = count
  progress : s.Progress i before copies 0

section
variable {s : State} {count copies : Nat} {i j : Fin 8} {before : List WavePhase}

theorem State.Priming.copy (h : s.Priming count i before copies) (hi : i.val < count) (few : copies ≤ 1) :
    (s.copy i).Priming count i before (copies + 1) where
  configured := h.configured.copy i
  chans := h.chans.copy (h.count ▸ hi)
  count := h.count
  progress := h.progress.copy h.configured h.chans (by
    have := Nat.mul_le_mul_right s.wp.toNat few
    omega)

theorem State.Priming.copy_other (h : s.Priming count i before copies) (hi : i.val < count) (hj : j.val < count)
    (other : j ≠ i) : (s.copy j).Priming count i before copies where
  configured := h.configured.copy j
  chans := h.chans.copy (h.count ▸ hj)
  count := h.count
  progress := (State.keepsStream_copy h.configured (h.count ▸ hi) (h.count ▸ hj) other).progress_same h.progress rfl

end

/-- PRIME makes the first two half-buffer writes of every configured channel (R156). -/
theorem State.Progress.primeAll {s : State} {i : Fin 8} {before : List WavePhase} (h : s.Progress i before 0 0)
    (conf : s.Configured) (chans : s.ChanInv) (hi : i.val < s.chanCount) : s.primeAll.Progress i before 2 0 := by
  have primed := State.forChannels_reaches (f := fun t j => (t.copy j).copy j)
    (P := fun t => t.Priming s.chanCount i before 0) (Q := fun t => t.Priming s.chanCount i before 2)
    hi ⟨conf, chans, rfl, h⟩ (fun t ht => (ht.copy hi (by omega)).copy hi le_rfl) fun t j other hj =>
      ⟨fun ht => (ht.copy_other hi hj other).copy_other hi hj other,
        fun ht => (ht.copy_other hi hj other).copy_other hi hj other⟩
  have renamed : (s.forChannels fun t j => (t.copy j).copy j).KeepsStream s.primeAll i := .of_eq rfl rfl rfl rfl rfl
  exact renamed.progress_same primed.progress rfl

end Sys2Proof.Machine
end

section
/-! PROOFS. What a render sends: every step taken while a channel holds its buffer keeps its render on its way to sending exactly its
stream (R134, R135, R160 to R168), so the whole render does (R168, R186). -/

namespace Sys2Proof.Machine

/-! ### The invariant, phase by phase -/

section
variable {t : State} {i : Fin 8} {before : List WavePhase}

theorem State.StreamInv.of_loaded (phase : t.phase = .loaded) (h : t.Progress i before 0 0) : t.StreamInv i before where
  loaded _ := h
  primed e := by simp [phase] at e
  sending e := by simp [phase] at e
  stopped e := by simp [phase] at e

theorem State.StreamInv.of_staged (phase : t.phase = .primed ∨ t.phase = .armed) (h : t.Progress i before 2 0) :
    t.StreamInv i before where
  loaded e := by simp [e] at phase
  primed _ := h
  sending e := by simp [e] at phase
  stopped e := by rcases e with e | e <;> simp [e] at phase

theorem State.StreamInv.of_sending (running : t.phase = .running) (active : (t.unit (t.unitOf i)).active = true)
    {copies sent : Nat} (h : t.Progress i before copies sent) (paced : t.Paced i copies sent) : t.StreamInv i before where
  loaded phase := absurd (running.symm.trans phase) nofun
  primed phase := by simp [running] at phase
  sending _ _ := ⟨copies, sent, h, paced⟩
  stopped _ rest := absurd (active.symm.trans rest) nofun

theorem State.StreamInv.of_stopped (phase : t.phase = .running ∨ t.phase = .idle)
    (rest : (t.unit (t.unitOf i)).active = false) (h : t.Sent i before) : t.StreamInv i before where
  loaded e := by simp [e] at phase
  primed e := by rcases e with e | e <;> simp [e] at phase
  sending _ active := absurd (active.symm.trans rest) nofun
  stopped _ _ := h

end

/-! ### Steps that leave the channel and its unit alone -/

section
variable {s t : State} {i : Fin 8} (kept : s.KeepsStream t i) {before : List WavePhase}
include kept

theorem State.KeepsStream.sent (wave : (t.unit (s.unitOf i)).wave = (s.unit (s.unitOf i)).wave)
    (thrRaw : (t.unit (s.unitOf i)).thrRaw = (s.unit (s.unitOf i)).thrRaw) (h : s.Sent i before) : t.Sent i before := by
  obtain ⟨sent, copies, count, copied⟩ := h
  refine ⟨?_, copies, ?_, kept.copied copied⟩
  · rw [kept.unitOf, wave, sent, kept.cfg, kept.enc]
  · rw [kept.unitOf, thrRaw, count, kept.len, kept.halfBytes]

theorem State.KeepsStream.paced (unit : t.unit (s.unitOf i) = s.unit (s.unitOf i)) {copies sent : Nat}
    (h : s.Paced i copies sent) : t.Paced i copies sent := by
  obtain ⟨rdptr, cnt, primed, ahead⟩ := h
  constructor <;> simpa only [kept.unitOf, unit, kept.wp]

end

theorem State.StreamInv.of_keeps {s t : State} {i : Fin 8} {before : List WavePhase} (h : s.StreamInv i before)
    (kept : s.KeepsStream t i) (unit : t.unit (s.unitOf i) = s.unit (s.unitOf i)) (phase : t.phase = s.phase) :
    t.StreamInv i before := by
  have wave := congrArg TxUnit.wave unit
  obtain ⟨loaded, primed, sending, stopped⟩ := h
  rw [← phase] at loaded primed sending stopped
  rw [← unit, ← kept.unitOf] at sending stopped
  refine ⟨fun e => kept.progress_same (loaded e) wave, fun e => kept.progress_same (primed e) wave, fun e active => ?_,
    fun e rest => kept.sent wave (congrArg TxUnit.thrRaw unit) (stopped e rest)⟩
  obtain ⟨copies, sent, progress, paced⟩ := sending e active
  exact ⟨copies, sent, kept.progress_same progress wave, kept.paced unit paced⟩

theorem State.Alike.keepsStream {s t : State} (h : s.Alike t) (i : Fin 8) : s.KeepsStream t i := by
  rw [h]
  exact .of_eq rfl rfl rfl rfl rfl

theorem State.Alike.streamInv {s t : State} (h : s.Alike t) {i : Fin 8} {before : List WavePhase} (hs : s.StreamInv i before) :
    t.StreamInv i before :=
  hs.of_keeps (h.keepsStream i) (h.unit _) h.phase

/-! ### The phases of a stream -/

theorem take_flatMap_wordPhases (ws : List Word) :
    ∀ n, (ws.flatMap wordPhases).take (2 * n) = (ws.take n).flatMap wordPhases := by
  induction ws with
  | nil => exact fun _ => by simp
  | cons w ws ih =>
    intro n
    cases n with
    | zero => rfl
    | succ n => simp [wordPhases, Nat.mul_succ, ih]

/-- Word `n` of a stream adds its two phases to those of the words before it (R135). -/
theorem expected_take_succ {p : Params} {enc : List Byte} {n : Nat} {w : Word} (word : (stream p enc)[n]? = some w) :
    (expected p enc).take (2 * (n + 1)) = (expected p enc).take (2 * n) ++ wordPhases w := by
  simp [expected, take_flatMap_wordPhases, List.take_add_one, word]

theorem expected_take_all (p : Params) (enc : List Byte) : (expected p enc).take (2 * (8 * enc.length)) = expected p enc := by
  rw [expected, take_flatMap_wordPhases, List.take_of_length_le (by rw [stream_length])]

/-! ### One word of a render -/

theorem next_word_at_half {half n : Nat} (pos : 0 < half) (atEnd : n % half + 1 = half) :
    (n + 1) / half = n / half + 1 ∧ (n + 1) % half = 0 := by
  have next : n + 1 = half * (n / half + 1) := by
    rw [Nat.mul_succ]
    have := Nat.div_add_mod n half
    omega
  rw [next, Nat.mul_div_cancel_left _ pos, Nat.mul_mod_right]
  exact ⟨rfl, rfl⟩

theorem next_word_within_half {half n : Nat} (pos : 0 < half) (within : n % half + 1 ≠ half) :
    (n + 1) / half = n / half ∧ (n + 1) % half = n % half + 1 := by
  have small : n % half + 1 < half := by
    have := Nat.mod_lt n pos
    omega
  have next : n + 1 = half * (n / half) + (n % half + 1) := by
    have := Nat.div_add_mod n half
    omega
  rw [next, Nat.mul_add_div pos, Nat.mul_add_mod, Nat.div_eq_of_lt small, Nat.mod_eq_of_lt small]
  exact ⟨rfl, rfl⟩

/-- A DATA word takes a unit that stands `sent` words after the start to the next word, and raises the threshold event at the end of
a half (R160). -/
theorem TxUnit.sendData_place {t : TxUnit} {half sent : Nat} (pos : 0 < half) (narrow : half ≤ 512)
    (limit : t.txLim.toNat = half) (rdptr : t.rdptr.toNat = sent % (2 * half)) (cnt : t.cnt.toNat = sent % half)
    (first second : WavePhase) :
    (t.sendData (2 * half) first second).rdptr.toNat = (sent + 1) % (2 * half) ∧
    (t.sendData (2 * half) first second).cnt.toNat = (sent + 1) % half ∧
    (t.sendData (2 * half) first second).thrRaw = (t.thrRaw || decide (sent % half + 1 = half)) := by
  have wrapped := Nat.mod_lt (sent + 1) (show 0 < 2 * half by omega)
  have within := Nat.mod_lt sent pos
  refine ⟨?_, ?_, by simp only [TxUnit.sendData, cnt, limit]⟩
  · simp only [TxUnit.sendData, rdptr, Nat.mod_add_mod, BitVec.toNat_ofNat]
    exact Nat.mod_eq_of_lt (by omega)
  · simp only [TxUnit.sendData, cnt, limit]
    split
    case isTrue atEnd => exact (next_word_at_half pos atEnd).2.symm
    case isFalse inside =>
      rw [(next_word_within_half pos inside).2]
      exact (BitVec.toNat_ofNat _ _).trans (Nat.mod_eq_of_lt (by omega))

/-- The unit of configured channel `i` sends, `sent` words after the start of the render, and no threshold event of it is lost: the
half-buffer writes made and the pending refill are two halves ahead of the half it is in. -/
structure State.SendsInTime (s : State) (i : Fin 8) (before : List WavePhase) (copies sent : Nat) : Prop where
  configured : s.Configured
  inRange : i.val < s.chanCount
  running : s.phase = .running
  active : (s.unit (s.unitOf i)).active = true
  progress : s.Progress i before copies sent
  paced : s.Paced i copies sent
  ahead : copies + (s.unit (s.unitOf i)).thrRaw.toNat = sent / s.wp.toNat + 2

/-- A sending unit is in time, or its last threshold event was lost (log 12). -/
theorem State.Paced.ahead_or_lost {s : State} {i : Fin 8} {copies sent : Nat} (paced : s.Paced i copies sent)
    (copied : s.Copied i copies) (conf : s.Configured) (hi : i.val < s.chanCount)
    (active : (s.unit (s.unitOf i)).active = true) :
    copies + (s.unit (s.unitOf i)).thrRaw.toNat = sent / s.wp.toNat + 2 ∨ s.EventLost (s.unitOf i) := by
  obtain ⟨rdptr, -, -, inTime | ⟨raised, behind⟩⟩ := paced
  · exact .inl inTime
  · refine .inr ⟨active, raised, ?_⟩
    rw [State.halfRead, rdptr, Nat.mul_comm, Nat.mod_mul_right_div_self, conf.chanOf_unitOf hi, copied.sel, behind]
    rcases Nat.mod_two_eq_zero_or_one (sent / s.wp.toNat) with e | e <;> rw [e] <;> rfl

section
variable {s : State} {i : Fin 8} {before : List WavePhase}

theorem State.StreamInv.sendsInTime (hs : s.StreamInv i before) (conf : s.ConfigInv) (life : s.LifeInv) (hi : i.val < s.chanCount)
    (active : (s.unit (s.unitOf i)).active = true) (inTime : s.refillLate (s.unitOf i) = false) :
    ∃ copies sent, s.SendsInTime i before copies sent := by
  have r := life.inRender_of_active conf active
  obtain ⟨copies, sent, progress, paced⟩ := hs.sending r.running active
  refine ⟨copies, sent, r.configured, hi, r.running, active, progress, paced, ?_⟩
  refine (paced.ahead_or_lost progress.copied r.configured hi active).resolve_right fun lost => ?_
  rw [State.refillLate_iff.mpr lost] at inTime
  cases inTime

variable {copies sent : Nat} (h : s.SendsInTime i before copies sent)
include h

/-- The word fetched is the stream's next word, or the END word after it (R158, R164). -/
theorem State.SendsInTime.fetch : s.pram (s.fetchIndex (s.unitOf i)) = some (s.streamWord i sent) := by
  have thr := Bool.toNat_le (s.unit (s.unitOf i)).thrRaw
  have ahead := h.ahead
  rw [State.fetchIndex, h.paced.rdptr]
  exact h.progress.words sent le_rfl h.progress.sent_le
    ((Nat.div_lt_iff_lt_mul h.configured.wp_pos).mp (by omega))

theorem State.SendsInTime.unitStep_eq (inTime : s.refillLate (s.unitOf i) = false) :
    unitStep (s.unitOf i) s = exec (decodePulse (s.streamWord i sent)) { s with txUnit := s.unitOf i } := by
  have noUnderrun : s.underrun (s.unitOf i) = false := by simpa [State.refillLate, h.active] using inTime
  exact unitStep_fetched h.active noUnderrun h.fetch

/-- The END word after the stream stops the unit, which has then sent the stream and raised T threshold events (R161, R165). -/
theorem State.SendsInTime.stop (all : sent = 8 * (s.chan i).len) {t : State} (kept : s.KeepsStream t i)
    (phase : t.phase = s.phase) (unit : t.unit (s.unitOf i) = (s.unit (s.unitOf i)).stop) : t.StreamInv i before := by
  have sent_all : s.Sent i before := by
    refine ⟨?_, copies, ?_, h.progress.copied⟩
    · rw [h.progress.wave, all]
      exact congrArg _ (expected_take_all _ _)
    · rw [h.ahead, all, h.configured.wp_eq, Nat.mul_div_mul_left _ _ (by decide)]
  refine .of_stopped (.inl (phase.trans h.running)) ?_ (kept.sent (by rw [unit]; rfl) (by rw [unit]; rfl) sent_all)
  rw [kept.unitOf, unit]
  rfl

/-- A word of the stream takes the unit to the next one (R160). -/
theorem State.SendsInTime.send (more : sent < 8 * (s.chan i).len) {first second : WavePhase}
    (phases : wordPhases (s.streamWord i sent) = [first, second]) {t : State} (kept : s.KeepsStream t i)
    (phase : t.phase = s.phase)
    (unit : t.unit (s.unitOf i) = (s.unit (s.unitOf i)).sendData (s.regionWords (s.unitOf i)) first second) :
    t.StreamInv i before := by
  rw [h.configured.regionWords_eq h.inRange] at unit
  obtain ⟨-, -, -, -, -, -, -, txLim, -⟩ := h.configured.unitConfigured h.inRange
  have ahead := h.ahead
  have pos := h.configured.wp_pos
  obtain ⟨rdptr, cnt, thrRaw⟩ := TxUnit.sendData_place pos h.configured.wp_le (congrArg BitVec.toNat txLim)
    h.paced.rdptr h.paced.cnt first second
  rw [← unit, ← kept.unitOf, ← kept.wp] at rdptr cnt thrRaw
  refine .of_sending (copies := copies) (sent := sent + 1) (phase.trans h.running) ?_
    (kept.progress h.progress (Nat.le_succ sent) more ?_) ⟨rdptr, cnt, h.paced.primed, ?_⟩
  · rw [kept.unitOf, unit]
    exact h.active
  · rw [unit, expected_take_succ (State.stream_getElem?_eq_streamWord more), phases, ← List.append_assoc, ← h.progress.wave]
    rfl
  · rw [thrRaw, kept.wp, kept.unitOf]
    by_cases atEnd : sent % s.wp.toNat + 1 = s.wp.toNat
    · rw [(next_word_at_half pos atEnd).1]
      simp only [atEnd, decide_true, Bool.or_true]
      cases raised : (s.unit (s.unitOf i)).thrRaw with
      | false =>
        rw [raised, Bool.toNat_false] at ahead
        exact .inl (congrArg (· + 1) ahead)
      | true =>
        rw [raised, Bool.toNat_true] at ahead
        exact .inr ⟨trivial, Nat.succ.inj ahead⟩
    · rw [(next_word_within_half pos atEnd).1]
      left
      simpa [atEnd] using ahead

end

/-- A step of channel `i`'s own unit keeps its stream: it passes, is an underrun, sends the next word, or stops after the last one. -/
theorem unitStep_streamInv {s t : State} {i : Fin 8} {before : List WavePhase} (conf : s.ConfigInv) (life : s.LifeInv)
    (hi : i.val < s.chanCount) (hs : s.StreamInv i before) (taken : unitStep (s.unitOf i) s = .next t) :
    t.StreamInv i before := by
  by_cases active : (s.unit (s.unitOf i)).active = true
  case neg =>
    simp only [unitStep, active] at taken
    cases taken
    exact hs
  cases late : s.refillLate (s.unitOf i) with
  | true =>
    cases taken.symm.trans (unitStep_eventLost (State.refillLate_iff.mp late))
    have alike : s.Alike { s with modelFault := some .underrun } := rfl
    exact alike.streamInv hs
  | false =>
    obtain ⟨copies, sent, h⟩ := hs.sendsInTime conf life hi active late
    rw [h.unitStep_eq late, exec_decodePulse] at taken
    have own (f : TxUnit → TxUnit) :
        ({ s with txUnit := s.unitOf i }.updUnit (s.unitOf i) f).unit (s.unitOf i) = f (s.unit (s.unitOf i)) := by
      rw [State.unit_updUnit, if_pos rfl]
      rfl
    obtain more | all := Nat.lt_or_eq_of_le h.progress.sent_le
    · obtain ⟨dur0, dur1⟩ := State.isData_streamWord more
      rw [if_neg dur0, if_neg dur1] at taken
      cases taken
      exact h.send more rfl (.of_eq rfl rfl rfl rfl rfl) rfl (own _)
    · rw [State.streamWord_end all.ge, if_pos (by decide)] at taken
      cases taken
      exact h.stop all (.of_eq rfl rfl rfl rfl rfl) rfl (own _)

/-! ### Service -/

theorem Chan.Running.rest_of_end {c : Chan} {t : TxUnit} (h : c.Running t) (raised : t.endRaw = true) : t.active = false := by
  obtain ⟨-, -, clear⟩ | ⟨-, rest, -⟩ | ⟨-, rest, -⟩ | ⟨-, rest, -⟩ := h
  case inl => exact absurd (raised.symm.trans clear) nofun
  all_goals exact rest

section
variable {s t : State} {i : Fin 8} {before : List WavePhase} (chans : s.ChanInv)
  (raised : (s.unit (s.unitOf i)).thrRaw = true) (kept : (s.copy i).KeepsStream t i)
  (unit : t.unit (s.unitOf i) = { s.unit (s.unitOf i) with thrRaw := false })
include chans raised kept unit

/-- The service of a threshold event of a unit that has stopped is one of its 2 + T half-buffer writes (R165, R215). -/
theorem State.Sent.refill (h : s.Sent i before) : t.Sent i before := by
  obtain ⟨wave, copies, count, copied⟩ := h
  have unitOf : t.unitOf i = s.unitOf i := kept.unitOf.trans (s.copy_unitOf i i)
  have enc : (t.chan i).enc = (s.chan i).enc := kept.enc.trans (s.copy_enc i i)
  have cfg : t.cfg = s.cfg := kept.cfg
  have halfBytes : t.halfBytes = s.halfBytes := kept.halfBytes
  rw [raised] at count
  refine ⟨?_, copies + 1, ?_, kept.copied (copied.copy chans)⟩ <;> rw [unitOf, unit]
  · rw [cfg, enc]
    exact wave
  · rw [Chan.len, enc, halfBytes]
    exact count

/-- The service of a sending unit's threshold event writes the half it has sent (R164, R215). -/
theorem State.SendsInTime.refill {copies sent : Nat} (h : s.SendsInTime i before copies sent) (phase : t.phase = s.phase) :
    t.StreamInv i before := by
  have unitOf : t.unitOf i = s.unitOf i := kept.unitOf.trans (s.copy_unitOf i i)
  have wp : t.wp = s.wp := kept.wp
  have ahead : copies + 1 = sent / s.wp.toNat + 2 := by rw [← h.ahead, raised]; rfl
  have room : copies * s.wp.toNat ≤ sent + s.wp.toNat := by
    rw [show copies = sent / s.wp.toNat + 1 by omega, Nat.add_one_mul]
    exact Nat.add_le_add_right (Nat.div_mul_le_self sent s.wp.toNat) _
  have paced := h.paced
  have refilled := kept.progress_same (h.progress.copy h.configured chans room) (by rw [s.copy_unitOf, unit, s.copy_unit])
  refine .of_sending (copies := copies + 1) (sent := sent) (phase.trans h.running) ?_ refilled
    ⟨?_, ?_, Nat.le_succ_of_le paced.primed, .inl ?_⟩ <;> rw [unitOf, unit]
  · exact h.active
  · rw [wp]
    exact paced.rdptr
  · rw [wp]
    exact paced.cnt
  · rw [wp]
    exact ahead

end

theorem State.StreamInv.serveThr {s : State} {i : Fin 8} {before : List WavePhase} (hs : s.StreamInv i before)
    (conf : s.ConfigInv) (chans : s.ChanInv) (life : s.LifeInv) (r : s.InRender (s.unitOf i)) (hi : i.val < s.chanCount)
    (raised : (s.unit (s.unitOf i)).thrRaw = true) (inTime : s.refillLate (s.unitOf i) = false) :
    (s.serveThr (s.unitOf i)).StreamInv i before := by
  have kept : (s.copy i).KeepsStream (s.serveThr (s.unitOf i)) i := by
    rw [State.serveThr, r.configured.chanOf_unitOf hi]
    exact .of_eq rfl rfl rfl rfl rfl
  have unit : (s.serveThr (s.unitOf i)).unit (s.unitOf i) = { s.unit (s.unitOf i) with thrRaw := false } := by
    rw [s.unit_serveThr, if_pos rfl]
  cases active : (s.unit (s.unitOf i)).active with
  | false =>
    refine .of_stopped (.inl ((s.serveThr_phase _).trans r.running)) ?_
      ((hs.stopped (.inl r.running) active).refill chans raised kept unit)
    rw [s.serveThr_unitOf, unit]
    exact active
  | true =>
    obtain ⟨copies, sent, h⟩ := hs.sendsInTime conf life hi active inTime
    exact h.refill chans raised kept unit (s.serveThr_phase _)

/-- The service of the end event of a unit that has sent its stream (R216). -/
theorem State.StreamInv.serveEnd {s : State} {i : Fin 8} {before : List WavePhase} (hs : s.StreamInv i before)
    (r : s.InRender (s.unitOf i)) (hi : i.val < s.chanCount) (raised : (s.unit (s.unitOf i)).endRaw = true) :
    (s.serveEnd (s.unitOf i)).StreamInv i before := by
  have kept : s.KeepsStream (s.serveEnd (s.unitOf i)) i :=
    .of_eq (s.serveEnd_cfg _) (s.serveEnd_wp _) (s.serveEnd_unitOf _ i) (s.serveEnd_mem _) (by
      rw [s.chan_serveEnd, r.configured.chanOf_unitOf hi, if_pos rfl]
      rfl)
  have unit : (s.serveEnd (s.unitOf i)).unit (s.unitOf i) = { s.unit (s.unitOf i) with endRaw := false } := by
    rw [s.unit_serveEnd, if_pos rfl]
  have rest := r.life.rest_of_end raised
  refine .of_stopped (.inl ((s.serveEnd_phase _).trans r.running)) ?_
    (kept.sent (by rw [unit]) (by rw [unit]) (hs.stopped (.inl r.running) rest))
  rw [s.serveEnd_unitOf, unit]
  exact rest

/-- A step of the service agent at channel `i`'s own unit keeps its stream. -/
theorem serviceStep_streamInv {s t : State} {i : Fin 8} {before : List WavePhase} (conf : s.ConfigInv) (chans : s.ChanInv)
    (life : s.LifeInv) (hi : i.val < s.chanCount) (hs : s.StreamInv i before)
    (taken : serviceStep (s.unitOf i) s = .next t) : t.StreamInv i before := by
  obtain ⟨e, -⟩ | ⟨e, pending, inTime⟩ | ⟨e, -⟩ | ⟨e, pending, -⟩ := serviceStep_cases (s.unitOf i) s <;>
    cases taken.symm.trans e
  · exact hs
  · obtain ⟨raised, enabled⟩ := TxUnit.thrPending_iff.mp pending
    exact hs.serveThr conf chans life (life.inRender_of_thr conf raised enabled) hi raised inTime
  · have alike : s.Alike { s with modelFault := some .underrun } := rfl
    exact alike.streamInv hs
  · obtain ⟨raised, enabled⟩ := TxUnit.endPending_iff.mp pending
    exact hs.serveEnd (life.inRender_of_end conf raised enabled) hi raised

/-! ### Commands -/

/-- A WAIT whose signal is given: another channel's, or the channel's own, whose unit has sent its stream (R186). -/
theorem State.StreamInv.release {s : State} {i : Fin 8} {before : List WavePhase} (hs : s.StreamInv i before) (life : s.LifeInv)
    (hi : i.val < s.chanCount) (running : s.phase = .running) {ch : Fin 8} (given : (s.chan ch).sig = .set) :
    (s.release ch).StreamInv i before := by
  have kept : s.KeepsStream (s.release ch) i :=
    .of_eq (s.release_cfg ch) (s.release_wp ch) (s.release_unitOf ch i) (s.release_mem ch) (by
      rw [s.chan_release]
      split <;> rfl)
  by_cases goesOn : (s.release ch).phase = .running
  · exact hs.of_keeps kept (s.release_unit ch _) (goesOn.trans running.symm)
  · have rest : (s.unit (s.unitOf i)).active = false := (life.release running given).rest goesOn hi
    have ended : (s.release ch).phase = .idle := by
      rw [s.release_phase] at goesOn ⊢
      split at goesOn
      · exact if_pos (by assumption)
      · exact absurd running goesOn
    have unit := s.release_unit ch (s.unitOf i)
    exact .of_stopped (.inr ended) rest (kept.sent (by rw [unit]) (by rw [unit]) (hs.stopped (.inl running) rest))

/-- START finds the first two halves written and the unit at the first word (R185). -/
theorem State.Progress.startAll {s : State} {i : Fin 8} {before : List WavePhase} (h : s.Progress i before 2 0)
    (hi : i.val < s.chanCount) : s.startAll.StreamInv i before := by
  have kept : s.KeepsStream s.startAll i :=
    .of_eq s.startAll_cfg s.startAll_wp (s.startAll_unitOf i) s.startAll_mem (by rw [s.chan_startAll, if_pos hi])
  have unit : s.startAll.unit (s.unitOf i) = (s.unit (s.unitOf i)).launch := by
    rw [s.unit_startAll, if_pos ((s.serves_iff _).mpr ⟨i, hi, rfl⟩)]
  refine .of_sending (copies := 2) (sent := 0) s.startAll_phase ?_ (kept.progress_same h (by rw [unit]; rfl))
    ⟨?_, ?_, le_rfl, .inl ?_⟩ <;> rw [s.startAll_unitOf, unit]
  · rfl
  · rw [Nat.zero_mod]
    rfl
  · rw [Nat.zero_mod]
    rfl
  · rw [Nat.zero_div]
    rfl

/-- A channel that holds its buffer is in a render. -/
theorem State.LifeInv.phase_ne_idle {s : State} (life : s.LifeInv) {i : Fin 8} (hi : i.val < s.chanCount)
    (held : (s.chan i).bufValid = true) : s.phase ≠ .idle := by
  obtain ⟨-, admits, -, -⟩ := life
  intro idle
  have here := admits i hi
  rw [idle] at here
  obtain ⟨⟨freed, -⟩, -⟩ := RenderPhase.admits_idle.mp here
  exact absurd (held.symm.trans freed) nofun

theorem CommandEffect.streamInv {s t : State} (h : CommandEffect s t) {i : Fin 8} {before : List WavePhase} (conf : s.ConfigInv)
    (chans : s.ChanInv) (life : s.LifeInv) (hi : i.val < s.chanCount) (held : (s.chan i).bufValid = true)
    (hs : s.StreamInv i before) : t.StreamInv i before := by
  cases h with
  | init _ before => exact absurd (life.1 before) (life.phase_ne_idle hi held)
  | load _ _ _ idle => exact absurd idle (life.phase_ne_idle hi held)
  | prime ready phase => exact .of_staged (.inl rfl) ((hs.loaded phase).primeAll (conf.1 ready.2) chans hi)
  | arm _ phase =>
    have kept : s.KeepsStream s.armAll i :=
      .of_eq s.armAll_cfg s.armAll_wp (s.armAll_unitOf i) s.armAll_mem (by rw [s.chan_armAll, if_pos hi])
    exact .of_staged (.inr rfl) (kept.progress_same (hs.primed (.inl phase)) rfl)
  | start _ phase => exact (hs.primed (.inr phase)).startAll hi
  | wait ch _ phase =>
    obtain ⟨e, given⟩ | ⟨e, -⟩ := s.awaitSignal_cases ch <;> rw [e]
    · exact hs.release life hi phase given
    · exact hs.of_keeps (.of_eq rfl rfl rfl rfl rfl) rfl rfl

/-! ### Every step -/

/-- Channels are configured only by INIT. -/
theorem State.ConfigInv.initDone_of_lt {s : State} (conf : s.ConfigInv) {i : Fin 8} (hi : i.val < s.chanCount) :
    s.initDone = true := by
  have ⟨_, before⟩ := conf
  cases done : s.initDone with
  | true => rfl
  | false =>
    obtain ⟨nch, -⟩ := before done
    rw [State.chanCount, nch] at hi
    exact absurd hi (Nat.not_lt_zero _)

/-- A step of any agent but the channel's own unit and its service keeps the channel's stream. -/
theorem AgentEffect.streamInv {turn : Turn} {s t : State} (h : AgentEffect turn s t) {i : Fin 8} {before : List WavePhase}
    (conf : s.ConfigInv) (chans : s.ChanInv) (life : s.LifeInv) (hi : i.val < s.chanCount) (held : (s.chan i).bufValid = true)
    (noReset : ∀ program, turn ≠ .reset program) (notUnit : turn ≠ .unit (s.unitOf i)) (notService : turn ≠ .service (s.unitOf i))
    (hs : s.StreamInv i before) : t.StreamInv i before := by
  cases h with
  | pass alike | marked alike => exact alike.streamInv hs
  | returned ch hold given =>
    have ⟨_, _, _, onHold⟩ := life
    exact hs.release life hi (onHold ch hold).1 given
  | gpio => exact hs.of_keeps (.of_eq rfl rfl rfl rfl rfl) rfl rfl
  | frame width k value =>
    exact hs.of_keeps (State.keepsStream_frame (conf.1 (conf.initDone_of_lt hi)) hi k _) rfl rfl
  | command effect => exact effect.streamInv conf chans life hi held hs
  | stop u | send u =>
    have other : s.unitOf i ≠ u := by rintro rfl; exact notUnit rfl
    exact hs.of_keeps (.of_eq rfl rfl rfl rfl rfl) (by rw [State.unit_updUnit, if_neg other]) rfl
  | serveThr u raised enabled =>
    have other : s.unitOf i ≠ u := by rintro rfl; exact notService rfl
    have r := life.inRender_of_thr conf raised enabled
    have copied := State.keepsStream_copy r.configured hi r.inRange fun e => other (by rw [← e, r.unitOf])
    have kept : s.KeepsStream (s.serveThr u) i :=
      ⟨s.serveThr_cfg u, s.serveThr_wp u, s.serveThr_unitOf u i, copied.chan, copied.pram⟩
    exact hs.of_keeps kept (by rw [s.unit_serveThr, if_neg other]) (s.serveThr_phase u)
  | serveEnd u =>
    have other : s.unitOf i ≠ u := by rintro rfl; exact notService rfl
    have kept : s.KeepsStream (s.serveEnd u) i :=
      .of_eq (s.serveEnd_cfg u) (s.serveEnd_wp u) (s.serveEnd_unitOf u i) (s.serveEnd_mem u) (by
        rw [s.chan_serveEnd]
        split <;> rfl)
    exact hs.of_keeps kept (by rw [s.unit_serveEnd, if_neg other]) (s.serveEnd_phase u)
  | reset program => exact absurd rfl (noReset program)

/-- Every step taken while a channel holds its buffer keeps its stream, whichever agent takes it (R82, R168). -/
theorem step_streamInv {s t : State} {i : Fin 8} {before : List WavePhase} (inv : s.Inv) (hi : i.val < s.chanCount)
    (held : (s.chan i).bufValid = true) (noReset : ∀ program, s.nextTurn ≠ .reset program) (hs : s.StreamInv i before)
    (taken : step s = .next t) : t.StreamInv i before := by
  obtain ⟨conf, -, chans, -, life⟩ := inv
  have others (notUnit : s.nextTurn ≠ .unit (s.unitOf i)) (notService : s.nextTurn ≠ .service (s.unitOf i)) :
      t.StreamInv i before := by
    obtain ⟨s', like, effect⟩ := step_effect taken
    have unitOf : s'.unitOf i = s.unitOf i := (like.keepsStream i).unitOf
    exact effect.streamInv (like.configInv conf) (like.chanInv chans) (like.lifeInv life) (by rw [like]; exact hi)
      (by rw [like.chan]; exact held) noReset (by rwa [unitOf]) (by rwa [unitOf]) (like.streamInv hs)
  have like := s.alike_takeTurn
  have count : i.val < s.takeTurn.chanCount := by rw [like]; exact hi
  obtain ⟨program, turn, -⟩ | ⟨-, ⟨turn, -⟩ | ⟨u, turn, h⟩ | ⟨u, turn, h⟩⟩ := step_cases taken
  · exact absurd turn (noReset program)
  · exact others (by rw [turn]; nofun) (by rw [turn]; nofun)
  · by_cases own : u = s.takeTurn.unitOf i
    · subst own
      exact unitStep_streamInv (like.configInv conf) (like.lifeInv life) count (like.streamInv hs) h
    · rw [s.takeTurn_unitOf] at own
      exact others (by rw [turn]; simpa using own) (by rw [turn]; nofun)
  · by_cases own : u = s.takeTurn.unitOf i
    · subst own
      exact serviceStep_streamInv (like.configInv conf) (like.chanInv chans) (like.lifeInv life) count (like.streamInv hs) h
    · rw [s.takeTurn_unitOf] at own
      exact others (by rw [turn]; nofun) (by rw [turn]; simpa using own)

/-! ### What else a render's steps keep -/

theorem CommandEffect.enc {s t : State} (h : CommandEffect s t) (busy : s.phase ≠ .idle) (i : Fin 8) :
    (t.chan i).enc = (s.chan i).enc := by
  cases h with
  | init nch => rw [s.initialise_chan]
  | load _ _ _ idle => exact absurd idle busy
  | prime =>
    exact State.primeAll_keeps (P := fun t => (t.chan i).enc = (s.chan i).enc) rfl (fun t j ht _ => (t.copy_enc j i).trans ht)
      fun _ ht => ht
  | arm => rw [s.chan_armAll]; split <;> rfl
  | start => rw [s.chan_startAll]; split <;> rfl
  | wait ch =>
    obtain ⟨e, -⟩ | ⟨e, -⟩ := s.awaitSignal_cases ch <;> rw [e]
    · rw [s.chan_release]; split <;> rfl
    · rfl

/-- In a render no step changes a buffer (R137). -/
theorem AgentEffect.enc {turn : Turn} {s t : State} (h : AgentEffect turn s t) (busy : s.phase ≠ .idle)
    (noReset : ∀ program, turn ≠ .reset program) (i : Fin 8) : (t.chan i).enc = (s.chan i).enc := by
  cases h with
  | pass alike | marked alike => rw [alike.chan]
  | returned ch => rw [s.chan_release]; split <;> rfl
  | gpio | frame | stop | send => rfl
  | command effect => exact effect.enc busy i
  | serveThr u => rw [s.chan_serveThr]; split <;> rfl
  | serveEnd u => rw [s.chan_serveEnd]; split <;> rfl
  | reset program => exact absurd rfl (noReset program)

/-- Every step keeps all the invariants. -/
theorem State.Inv.step {s t : State} (inv : s.Inv) (taken : step s = .next t) : t.Inv := by
  obtain ⟨conf, mem, chans, pointers, life⟩ := inv
  exact ⟨(stepKeepsConfiguration s t conf taken).1, stepKeepsMemory s t conf mem taken,
    stepKeepsChannelBounds s t conf life chans taken, stepKeepsPointers s t conf pointers taken,
    stepKeepsChannelLife s t conf chans life taken⟩

/-! ### The whole render -/

/-- `t` is a state of the render of channel `i` that was loaded in `s`. -/
structure State.InStream (s t : State) (i : Fin 8) : Prop where
  inv : t.Inv
  inRange : i.val < t.chanCount
  cfg : t.cfg = s.cfg
  wp : t.wp = s.wp
  unitOf : t.unitOf i = s.unitOf i
  enc : (t.chan i).enc = (s.chan i).enc
  stream : t.StreamInv i (s.unit (s.unitOf i)).wave

/-- LOAD leaves a channel at the start of its stream, no half-buffer write made (R137). -/
theorem State.Inv.inStream {s : State} (inv : s.Inv) (loaded : s.phase = .loaded) {i : Fin 8} (hi : i.val < s.chanCount) :
    s.InStream s i := by
  have ⟨_, _, _, _, _, admits, _⟩ := inv
  have here := admits i hi
  rw [loaded] at here
  obtain ⟨-, ⟨pos, dirty, sel⟩, -⟩ := RenderPhase.admits_loaded.mp here
  have copied : s.Copied i 0 := ⟨by simp [pos], by simp [sel], by simp [dirty]⟩
  exact ⟨inv, hi, rfl, rfl, rfl, rfl, .of_loaded loaded
    ⟨copied, Nat.zero_le _, by simp, fun j _ _ written => absurd written (by simp)⟩⟩

theorem State.InStream.step {s t r : State} {i : Fin 8} (h : s.InStream t i) (held : (t.chan i).bufValid = true)
    (noReset : ∀ program, t.nextTurn ≠ .reset program) (taken : step t = .next r) : s.InStream r i := by
  have ⟨conf, _, _, _, life⟩ := h.inv
  obtain ⟨-, setup⟩ := stepKeepsConfiguration t r conf taken
  obtain ⟨-, nch, -, wp, map, -⟩ := setup (conf.initDone_of_lt h.inRange) noReset
  obtain ⟨t', like, effect⟩ := step_effect taken
  have busy : t'.phase ≠ .idle := by
    rw [like.phase]
    exact life.phase_ne_idle h.inRange held
  have enc := effect.enc busy noReset i
  rw [like.chan] at enc
  have unitOf : r.unitOf i = t.unitOf i := congrArg (·[i]) map
  have inRange : i.val < r.chanCount := by
    rw [State.chanCount, nch]
    exact h.inRange
  obtain ⟨cfg, -⟩ := firstFaultStays t r taken
  exact ⟨h.inv.step taken, inRange, cfg.trans h.cfg, wp.trans h.wp, unitOf.trans h.unitOf, enc.trans h.enc,
    step_streamInv h.inv h.inRange held noReset h.stream taken⟩

theorem State.Renders.inStream {s t : State} {i : Fin 8} (h : State.Renders i s t) (inv : s.Inv) (loaded : s.phase = .loaded)
    (hi : i.val < s.chanCount) : s.InStream t i := by
  induction h with
  | start => exact inv.inStream loaded hi
  | next _ held noReset taken ih => exact ih.step held noReset taken

/-! ### Where a unit has stopped -/

/-- Once the end event is raised, the signal given or the channel released, the unit has stopped. -/
theorem RenderPhase.admits_ended {p : RenderPhase} {c : Chan} {t : TxUnit} (h : p.admits c t = true)
    (ended : t.endRaw = true ∨ c.sig = .set ∨ c.bufValid = false) : (p = .running ∨ p = .idle) ∧ t.active = false := by
  cases p with
  | idle =>
    obtain ⟨-, rest, -⟩ := admits_idle.mp h
    exact ⟨.inr rfl, rest⟩
  | loaded =>
    obtain ⟨⟨valid, -, sig⟩, -, -, -, clear⟩ := admits_loaded.mp h
    simp [valid, sig, clear] at ended
  | primed =>
    obtain ⟨⟨valid, -, sig⟩, -, -, clear⟩ := admits_primed.mp h
    simp [valid, sig, clear] at ended
  | armed =>
    obtain ⟨⟨valid, -, sig⟩, -, -, clear⟩ := admits_armed.mp h
    simp [valid, sig, clear] at ended
  | running =>
    refine ⟨.inl rfl, ?_⟩
    obtain ⟨⟨valid, -, sig⟩, -, clear⟩ | ⟨-, rest, -⟩ | ⟨-, rest, -⟩ | ⟨-, rest, -⟩ := admits_running.mp h
    · simp [valid, sig, clear] at ended
    all_goals exact rest

/-- Once the signal is given or the channel released, the unit has no event left (R214, R216). -/
theorem RenderPhase.admits_given {p : RenderPhase} {c : Chan} {t : TxUnit} (h : p.admits c t = true)
    (given : c.sig = .set ∨ c.bufValid = false) : t.Quiet := by
  by_cases running : p = .running
  · subst running
    obtain ⟨⟨valid, -, sig⟩, -⟩ | ⟨⟨valid, -, sig⟩, -⟩ | ⟨-, quiet⟩ | ⟨-, quiet⟩ := admits_running.mp h
    · simp [valid, sig] at given
    · simp [valid, sig] at given
    all_goals exact quiet
  · exact admits_quiet h running

/-- A record on its way to the stream, or at its end, is a first part of it. -/
theorem State.StreamInv.exists_take {t : State} {i : Fin 8} {before : List WavePhase} (h : t.StreamInv i before)
    (life : t.LifeInv) (hi : i.val < t.chanCount) :
    ∃ k, (t.unit (t.unitOf i)).wave = before ++ (expected t.cfg (t.chan i).enc).take k := by
  cases active : (t.unit (t.unitOf i)).active with
  | true =>
    have running : t.phase = .running := by_contra fun other => absurd (active.symm.trans (life.rest other hi)) nofun
    obtain ⟨_, sent, progress, -⟩ := h.sending running active
    exact ⟨_, progress.wave⟩
  | false =>
    cases phase : t.phase with
    | loaded => exact ⟨_, (h.loaded phase).wave⟩
    | primed => exact ⟨_, (h.primed (.inl phase)).wave⟩
    | armed => exact ⟨_, (h.primed (.inr phase)).wave⟩
    | running => exact ⟨_, (h.stopped (.inl phase) active).wave.trans (congrArg _ List.take_length.symm)⟩
    | idle => exact ⟨_, (h.stopped (.inr phase) active).wave.trans (congrArg _ List.take_length.symm)⟩

/-- A unit with no event pending has had its 2 + T half-buffer writes, the last of them the flush (R165, R167). -/
theorem State.Sent.flushed {t : State} {i : Fin 8} {before : List WavePhase} (h : t.Sent i before) (conf : t.Configured)
    (served : (t.unit (t.unitOf i)).thrRaw = false) :
    (t.chan i).pos.toNat = (t.chan i).len ∧ (t.chan i).dirty = false ∧
      (t.chan i).sel = decide ((t.chan i).len / t.halfBytes % 2 = 1) := by
  obtain ⟨-, copies, count, pos, sel, dirty⟩ := h
  rw [served] at count
  obtain rfl : copies = (t.chan i).len / t.halfBytes + 1 + 1 := count
  have past := Nat.lt_mul_div_succ (t.chan i).len conf.halfBytes_pos
  rw [Nat.mul_comm] at past
  refine ⟨?_, ?_, ?_⟩
  · have last := Nat.add_one_mul ((t.chan i).len / t.halfBytes + 1) t.halfBytes
    omega
  · rw [dirty, decide_eq_false_iff_not, Nat.add_sub_cancel]
    exact not_or.mpr ⟨Nat.succ_ne_zero _, Nat.not_lt.mpr past.le⟩
  · rw [sel, decide_eq_decide]
    omega

/-- Settles O60: by induction on the steps of the render the stream invariant holds at each of its states, and the life invariant
says where the unit has stopped. -/
theorem renderSendsStream : Obligations.RenderSendsStream := by
  intro s t i inv loaded hi renders
  have h := renders.inStream inv loaded hi
  have ⟨conf, _, _, _, life⟩ := h.inv
  have ⟨_, admits, _⟩ := life
  have here := admits i h.inRange
  rw [h.unitOf] at here
  have sent (ended : (t.unit (s.unitOf i)).endRaw = true ∨ (t.chan i).sig = .set ∨ (t.chan i).bufValid = false) :
      t.Sent i (s.unit (s.unitOf i)).wave := by
    obtain ⟨phase, rest⟩ := RenderPhase.admits_ended here ended
    exact h.stream.stopped phase (h.unitOf ▸ rest)
  refine ⟨h.unitOf, h.enc, ?_, fun ended => ?_, fun given => ?_⟩
  · have part := h.stream.exists_take life h.inRange
    rwa [h.unitOf, h.cfg, h.enc] at part
  · have wave := (sent ended).wave
    rwa [h.unitOf, h.cfg, h.enc] at wave
  · obtain ⟨-, served, -⟩ := RenderPhase.admits_given here given
    have flushed := (sent (.inr given)).flushed (conf.1 (conf.initDone_of_lt h.inRange)) (h.unitOf ▸ served)
    rwa [Chan.len, h.enc, State.halfBytes, h.wp] at flushed

end Sys2Proof.Machine
end

section
/-! PROOFS. The pulse words and a unit's step (spec/41_arbiter.md): what a DATA, an END and a HALF word do (R160 to R162), which word a
step runs (R158, R159, R163), and what it leaves alone (R225). -/

namespace Sys2Proof.Machine

/-! ### The pulse words -/

/-- A region is shorter than a read pointer of 12 bits can count (R9, R43). -/
theorem State.regionWords_lt (s : State) (u : Fin 8) : s.regionWords u < 2 ^ 12 := by
  obtain ⟨-, ppb, -⟩ := s.cfg.valid
  have blocks := (s.unit u).memSize.isLt
  have words := Nat.mul_le_mul ppb (Nat.le_of_lt_succ blocks)
  unfold State.regionWords
  omega

section
variable (t : TxUnit) {region : Nat} (first second : WavePhase)

theorem TxUnit.sendData_rdptr (pos : 0 < region) (narrow : region < 2 ^ 12) :
    (t.sendData region first second).rdptr.toNat = (t.rdptr.toNat + 1) % region :=
  (BitVec.toNat_ofNat _ _).trans (Nat.mod_eq_of_lt ((Nat.mod_lt _ pos).trans narrow))

variable {t}

theorem TxUnit.sendData_atLimit (reaches : t.cnt.toNat + 1 = t.txLim.toNat) :
    (t.sendData region first second).cnt = 0#12 ∧ (t.sendData region first second).thrRaw = true := by
  simp [TxUnit.sendData, reaches]

theorem TxUnit.sendData_belowLimit (below : t.cnt.toNat + 1 ≠ t.txLim.toNat) :
    (t.sendData region first second).cnt = t.cnt + 1#12 ∧ (t.sendData region first second).thrRaw = t.thrRaw := by
  simp [TxUnit.sendData, below, BitVec.ofNat_add]

end

/-- What an update of one unit changes. -/
theorem State.updUnit_effect (s : State) (u : Fin 8) (f : TxUnit → TxUnit) :
    ∃ units, s.updUnit u f = { s with units := units } ∧ ∀ v : Fin 8, units[v] = if v = u then f (s.unit v) else s.unit v :=
  ⟨_, rfl, s.unit_updUnit u f⟩

/-- Settles O24: the fetching unit alone is updated, and below 2^12 nothing of its read pointer is cut. -/
theorem dataWordDrivesTwoPhases : Obligations.DataWordDrivesTwoPhases := by
  intro s lvl0 dur0 lvl1 dur1
  obtain ⟨units, effect, unit⟩ := s.updUnit_effect s.txUnit fun t =>
    t.sendData (s.regionWords s.txUnit) ⟨lvl0, dur0⟩ ⟨lvl1, dur1⟩
  refine ⟨units, congrArg _ effect, fun v other => (unit v).trans (if_neg other), ?_⟩
  rw [(unit s.txUnit).trans (if_pos rfl)]
  exact ⟨rfl, fun pos => TxUnit.sendData_rdptr _ _ _ pos (s.regionWords_lt _), TxUnit.sendData_atLimit _ _,
    TxUnit.sendData_belowLimit _ _⟩

/-- Settles O25: the fetching unit alone is updated, whatever the ignored bits are. -/
theorem endWordStopsUnit : Obligations.EndWordStopsUnit := by
  intro s ignored
  obtain ⟨units, effect, unit⟩ := s.updUnit_effect s.txUnit TxUnit.stop
  exact ⟨units, congrArg _ effect, unit⟩

/-- Settles O26: the meaning of a HALF word is the raise itself. -/
theorem halfWordMarksModelFault : Obligations.HalfWordMarksModelFault := fun _ _ _ _ => rfl

/-! ### The word a step runs -/

theorem unitStep_rest {s : State} {u : Fin 8} (rest : (s.unit u).active = false) : unitStep u s = .next s := by
  simp [unitStep, rest]

/-- An active unit with no underrun whose word was never written marks UNINIT_READ (R54, R159). -/
theorem unitStep_uninit {s : State} {u : Fin 8} (active : (s.unit u).active = true) (inTime : s.underrun u = false)
    (unwritten : s.pram (s.fetchIndex u) = none) : unitStep u s = .next { s with modelFault := some .uninitRead } := by
  simp [unitStep, active, inTime, unwritten, raiseModelFault]

theorem State.underrun_eq_false_iff {s : State} {u : Fin 8} :
    s.underrun u = false ↔ ¬ ((s.unit u).thrRaw = true ∧ s.halfRead u = (s.chan (s.chanOf u)).sel.toNat) := by
  simp [State.underrun]

/-- Settles O41: the checks of a unit's step one after the other. -/
theorem unitStepRunsFetchedWord : Obligations.UnitStepRunsFetchedWord := by
  intro s turns u turn unmarked
  rw [step_unit turn unmarked]
  refine ⟨fun rest => unitStep_rest rest, fun active raised half => unitStep_eventLost ⟨active, raised, half⟩,
    fun active inTime => ?_⟩
  rw [← State.underrun_eq_false_iff] at inTime
  refine ⟨fun w fetched i decoded => ?_, fun unwritten => unitStep_uninit active inTime unwritten⟩
  cases decoded
  exact unitStep_fetched active inTime fetched

/-! ### What a step leaves alone -/

/-- `t` differs from `s` at most in unit `u` and in the model's own record of a model fault, of the fetching unit and of the order of
the agents. -/
structure State.OnlyUnit (s t : State) (u : Fin 8) : Prop where
  frame : t = { s with
    units := t.units, modelFault := t.modelFault, txUnit := t.txUnit, schedule := t.schedule, choices := t.choices }
  others : ∀ v, v ≠ u → t.unit v = s.unit v

theorem State.OnlyUnit.of_units {s t : State} {u : Fin 8} (units : t.units = s.units) (frame : t = { s with
    units := t.units, modelFault := t.modelFault, txUnit := t.txUnit, schedule := t.schedule, choices := t.choices }) :
    s.OnlyUnit t u :=
  ⟨frame, fun v _ => congrArg (·[v]) units⟩

theorem State.onlyUnit_updUnit (s : State) (u : Fin 8) (f : TxUnit → TxUnit) :
    s.OnlyUnit ({ s with txUnit := u }.updUnit u f) u :=
  ⟨rfl, fun _ other => (State.unit_updUnit _ _ _ _).trans (if_neg other)⟩

theorem State.onlyUnit_takeTurn (s : State) (u : Fin 8) : s.OnlyUnit s.takeTurn u := by
  refine .of_units s.takeTurn_units ?_
  unfold State.takeTurn
  split <;> rfl

theorem State.OnlyUnit.trans {s t r : State} {u : Fin 8} (h : s.OnlyUnit t u) (h' : t.OnlyUnit r u) : s.OnlyUnit r u :=
  ⟨by rw [h'.frame, h.frame], fun v other => (h'.others v other).trans (h.others v other)⟩

theorem unitStep_onlyUnit {u : Fin 8} {s t : State} (h : unitStep u s = .next t) : s.OnlyUnit t u := by
  obtain ⟨e, -⟩ | ⟨-, ⟨_, e⟩ | ⟨_, e⟩ | e | ⟨_, -, -, e⟩⟩ := unitStep_cases u s <;> cases h.symm.trans e
  · exact .of_units rfl rfl
  · exact .of_units rfl rfl
  · exact .of_units rfl rfl
  · exact s.onlyUnit_updUnit u _
  · exact s.onlyUnit_updUnit u _

/-- With no model fault marked the step at a unit's turn is the unit's (R158, R212). -/
theorem step_at_unit {s : State} {u : Fin 8} (turn : s.nextTurn = .unit u) (unmarked : s.modelFault = none) :
    step s = unitStep u s.takeTurn := by
  rw [step, turn]
  exact guardModelFault_unmarked (s.takeTurn_modelFault.trans unmarked) _

theorem unitStep_of_step {s t : State} {u : Fin 8} (turn : s.nextTurn = .unit u) (taken : step s = .next t) :
    unitStep u s.takeTurn = .next t := by
  cases marked : s.modelFault with
  | none => exact (step_at_unit turn marked).symm.trans taken
  | some k => exact absurd ((modelFaultStopsNextStep s k marked (by rw [turn]; nofun)).symm.trans taken) nofun

/-- Settles O55: choosing the agent changes nothing but the order of the agents, and each case of a unit's step is the unit's own. -/
theorem unitsAreIsolated : Obligations.UnitsAreIsolated := by
  intro s t u turn taken
  obtain ⟨frame, others⟩ := (s.onlyUnit_takeTurn u).trans (unitStep_onlyUnit (unitStep_of_step turn taken))
  refine ⟨others, ?_⟩
  rw [frame]
  exact ⟨rfl, rfl, rfl, rfl, rfl, rfl, rfl, rfl, rfl⟩

/-! ### Steps of a render -/

/-- Settles O58: the stream invariant is kept by the effect of every agent's step. -/
theorem stepKeepsStream : Obligations.StepKeepsStream :=
  fun _ _ _ _ inv hi held noReset hs taken => step_streamInv inv hi held noReset hs taken

/-- A unit that sends in time runs a DATA word of the stream, or the END word after it (R157, R162). -/
theorem State.SendsInTime.unitStep_updates {s : State} {i : Fin 8} {before : List WavePhase} {copies sent : Nat}
    (h : s.SendsInTime i before copies sent) (inTime : s.refillLate (s.unitOf i) = false) :
    ∃ f, unitStep (s.unitOf i) s = .next ({ s with txUnit := s.unitOf i }.updUnit (s.unitOf i) f) := by
  rw [h.unitStep_eq inTime, exec_decodePulse]
  obtain more | all := Nat.lt_or_ge sent (8 * (s.chan i).len)
  · obtain ⟨dur0, dur1⟩ := State.isData_streamWord more
    rw [if_neg dur0, if_neg dur1]
    exact ⟨_, rfl⟩
  · rw [State.streamWord_end all, if_pos (by decide)]
    exact ⟨_, rfl⟩

/-- A step of a unit in a render marks a model fault only where a threshold event of the unit was lost (R163, log 12). -/
theorem unitStep_keeps_mark {s : State} {i : Fin 8} {before : List WavePhase} (conf : s.ConfigInv) (life : s.LifeInv)
    (hi : i.val < s.chanCount) (hs : s.StreamInv i before) (notLost : ¬ s.EventLost (s.unitOf i)) :
    ∃ t, unitStep (s.unitOf i) s = .next t ∧ t.modelFault = s.modelFault := by
  cases active : (s.unit (s.unitOf i)).active with
  | false => exact ⟨s, unitStep_rest active, rfl⟩
  | true =>
    have inTime : s.refillLate (s.unitOf i) = false := by rwa [← Bool.not_eq_true, State.refillLate_iff]
    obtain ⟨copies, sent, sends⟩ := hs.sendsInTime conf life hi active inTime
    obtain ⟨_, runs⟩ := sends.unitStep_updates inTime
    exact ⟨_, runs, rfl⟩

/-- The half invariant leaves no unit of a configured channel with a lost event (R164). -/
theorem State.HalfInv.not_eventLost {s : State} (half : s.HalfInv) (conf : s.Configured) {i : Fin 8} (hi : i.val < s.chanCount) :
    ¬ s.EventLost (s.unitOf i) := by
  rintro ⟨active, raised, read⟩
  obtain ⟨-, -, apart⟩ := (half i hi).2 active
  rw [conf.chanOf_unitOf hi] at read
  exact apart raised read

/-- Settles O59: a unit's step underruns where an event was lost, and otherwise runs a word of the stream or the END word after it. -/
theorem unitStepsRaiseNoModelFault : Obligations.UnitStepsRaiseNoModelFault := by
  intro s i before ⟨conf, _, _, _, life⟩ hi hs unmarked turn
  by_cases lost : s.EventLost (s.unitOf i)
  · refine ⟨_, step_eventLost lost unmarked (.inl turn), .inr rfl, fun half => ?_⟩
    exact absurd lost (half.not_eventLost (conf.1 (conf.initDone_of_lt hi)) hi)
  · have like := s.alike_takeTurn
    obtain ⟨t, runs, mark⟩ := unitStep_keeps_mark (i := i) (like.configInv conf) (like.lifeInv life) (by rw [like]; exact hi)
      (like.streamInv hs) (by rw [like]; exact lost)
    rw [s.takeTurn_unitOf, ← step_at_unit turn unmarked] at runs
    have unmarked' := mark.trans (s.takeTurn_modelFault.trans unmarked)
    exact ⟨t, runs, .inl unmarked', fun _ => unmarked'⟩

end Sys2Proof.Machine
end

section
/-! PROOFS. The half-buffer write where it is issued: by the service of a threshold event (R150, R151, R215) and by PRIME (R156). -/

namespace Sys2Proof.Machine

/-! ### The words of one half-buffer write, in every state -/

section
variable {s : State} {c : Chan} {m : Nat} (live : c.pos.toNat < c.len)
include live

/-- The live data of a half: word `m` is word `m % 8` of the byte `m / 8` places after the read position (R131, R150). -/
theorem State.copyWords_data (data : m < 8 * s.copyCount c) :
    (s.copyWords c)[m]? =
      (c.enc[c.pos.toNat + m / 8]?).bind fun x => (encodeByte s.cfg x (decide (c.pos.toNat + m / 8 + 1 = c.len)))[m % 8]? := by
  have fits : s.copyCount c ≤ c.enc.length - c.pos.toNat := Nat.min_le_right _ _
  have inRange : c.pos.toNat + m / 8 < c.enc.length := by omega
  have byte := List.getElem?_eq_getElem inRange
  have place : 8 * c.pos.toNat + m = 8 * (c.pos.toNat + m / 8) + m % 8 := by omega
  rw [State.copyWords, if_pos live, State.dataWords,
    List.getElem?_append_left (by rwa [encodeBytes_length, s.copied_bytes_length]), Chan.len,
    encodeBytes_drop_take _ (by omega), List.getElem?_take_of_lt data, List.getElem?_drop, place,
    stream_getElem? _ byte (Nat.mod_lt _ (by decide)), byte, Option.bind_some]

/-- After its live data a half is filled with END words (R150). -/
theorem State.copyWords_padding (past : 8 * s.copyCount c ≤ m) (hm : m < s.wp.toNat) : (s.copyWords c)[m]? = some 0#32 := by
  rw [State.copyWords, if_pos live, State.dataWords,
    List.getElem?_append_right (by rwa [encodeBytes_length, s.copied_bytes_length]), encodeBytes_length, s.copied_bytes_length,
    List.getElem?_replicate_of_lt (by omega)]

end

/-- The flush of a half (R151). -/
theorem State.copyWords_flush {s : State} {c : Chan} (ended : c.len ≤ c.pos.toNat) (dirty : c.dirty = true) :
    s.copyWords c = List.replicate s.wp.toNat 0#32 := by
  rw [State.copyWords, if_neg (Nat.not_lt.mpr ended), if_pos dirty]

/-- After the flush nothing is written (R151). -/
theorem State.copyWords_flushed {s : State} {c : Chan} (ended : c.len ≤ c.pos.toNat) (clean : c.dirty = false) :
    s.copyWords c = [] := by
  rw [State.copyWords, if_neg (Nat.not_lt.mpr ended), if_neg (by rw [clean]; nofun)]

/-! ### The service of a threshold event -/

/-- Settles O27: in time, the service is the half-buffer write of the unit's channel with the raw bit cleared. -/
theorem thresholdServiceRefillsHalf : Obligations.ThresholdServiceRefillsHalf := by
  intro s u i c n base kept hi hc hn hbase
  subst hi hc
  obtain rfl : n = s.copyCount (s.chan (s.chanOf u)) := hn
  obtain rfl : base = s.copyBase (s.chanOf u) := hbase
  have inTime : s.refillLate u = false := by rwa [← Bool.not_eq_true, State.refillLate_iff]
  have written {m : Nat} (whole : (s.copyWords (s.chan (s.chanOf u))).length = s.wp.toNat) (hm : m < s.wp.toNat) :
      Memory.readWord (s.serveThr u).mem (pramAddr (s.copyBase (s.chanOf u) + m)) = (s.copyWords (s.chan (s.chanOf u)))[m]? :=
    s.pram_copy_written _ (by rwa [whole])
  refine ⟨(s.serveThr u).chans, (s.serveThr u).units, (s.serveThr u).mem, execEventThr_inTime inTime, s.unit_serveThr u,
    fun j other => (s.chan_serveThr u j).trans (if_neg other), (s.chan_serveThr u _).trans (if_pos rfl),
    fun m hm live => ?_, fun m hm ended dirty => ?_, fun ended clean => ?_, fun a outside => ?_⟩
  · rw [written (by rw [State.copyWords, if_pos live, s.dataWords_length]) hm]
    split
    case isTrue data => exact State.copyWords_data live data
    case isFalse past => exact State.copyWords_padding live (Nat.le_of_not_lt past) hm
  · have flush := State.copyWords_flush (s := s) ended dirty
    rw [written (by rw [flush, List.length_replicate]) hm, flush, List.getElem?_replicate_of_lt hm]
  · exact congrArg (Memory.writeWords s.mem _) (State.copyWords_flushed ended clean)
  · have half := s.copyWords_length_le (s.chan (s.chanOf u))
    refine Memory.read_writeWords_outside (outside.imp_right fun above => ?_)
    simp only [pramAddr] at above ⊢
    omega

/-! ### PRIME -/

/-- `t` differs from `s` at most in its phase, in the send states of channels other than `i`, and in the memory outside channel `i`'s
region. -/
structure State.SameChannel (s t : State) (i : Fin 8) : Prop where
  frame : t = { s with chans := t.chans, mem := t.mem, phase := t.phase }
  chan : t.chan i = s.chan i
  pram : ∀ j < 2 * s.wp.toNat, t.pram (s.base (s.unitOf i) + j) = s.pram (s.base (s.unitOf i) + j)

section
variable {s t : State} {i : Fin 8} (same : s.SameChannel t i)
include same

theorem State.SameChannel.chanCount : t.chanCount = s.chanCount := by rw [same.frame]; rfl

theorem State.SameChannel.configured (conf : s.Configured) : t.Configured := by
  rw [same.frame]
  exact conf

theorem State.SameChannel.withPhase (p : RenderPhase) : s.SameChannel { t with phase := p } i := by
  refine ⟨?_, same.chan, same.pram⟩
  rw [same.frame]

/-- A half-buffer write of another channel (R77). -/
theorem State.SameChannel.copy_other (conf : s.Configured) (hi : i.val < s.chanCount) {j : Fin 8} (hj : j.val < s.chanCount)
    (other : j ≠ i) : s.SameChannel (t.copy j) i := by
  have kept := State.keepsStream_copy (same.configured conf) (same.chanCount.symm ▸ hi) (same.chanCount.symm ▸ hj) other
  refine ⟨?_, ?_, fun k hk => ?_⟩
  · rw [t.copy_frame, same.frame]
  · rw [t.chan_copy, if_neg other.symm, same.chan]
  · rw [← same.pram k hk]
    have here := kept.pram k
    rw [same.frame] at here ⊢
    exact here hk

/-- The channel's own half-buffer write comes to the same in both states (R150). -/
theorem State.SameChannel.copy : (s.copy i).SameChannel (t.copy i) i := by
  have words : t.copyWords (t.chan i) = s.copyWords (s.chan i) := by
    rw [same.chan, same.frame]
    rfl
  have place : t.copyBase i = s.copyBase i := by
    rw [State.copyBase, same.chan, same.frame]
    rfl
  refine ⟨?_, ?_, fun k (hk : k < 2 * s.wp.toNat) => ?_⟩
  · rw [t.copy_frame, same.frame]
    rfl
  · rw [t.chan_copy, s.chan_copy, if_pos rfl, if_pos rfl, same.chan, same.frame]
    rfl
  · change (t.copy i).pram (s.base (s.unitOf i) + k) = (s.copy i).pram (s.base (s.unitOf i) + k)
    by_cases inside : s.copyBase i ≤ s.base (s.unitOf i) + k ∧
        s.base (s.unitOf i) + k < s.copyBase i + (s.copyWords (s.chan i)).length
    · obtain ⟨above, below⟩ := inside
      obtain ⟨m, e⟩ := Nat.exists_eq_add_of_le above
      have written := t.pram_copy_written i (k := m) (by rw [words]; omega)
      rw [place, words] at written
      rw [e, written, s.pram_copy_written i (by omega)]
    · rw [s.pram_copy_outside i (by omega), t.pram_copy_outside i (by rw [place, words]; omega), same.pram k hk]

end

@[simp] theorem State.copy_chanCount (s : State) (i : Fin 8) : (s.copy i).chanCount = s.chanCount := rfl

@[simp] theorem State.copy_halfBytes (s : State) (i : Fin 8) : (s.copy i).halfBytes = s.halfBytes := rfl

@[simp] theorem State.copy_wp (s : State) (i : Fin 8) : (s.copy i).wp = s.wp := rfl

@[simp] theorem State.copy_base (s : State) (i u : Fin 8) : (s.copy i).base u = s.base u := rfl

/-- For a configured channel PRIME comes to the channel's own two half-buffer writes (R77, R156). -/
theorem State.Configured.sameChannel_primeAll {s : State} (conf : s.Configured) {i : Fin 8} (hi : i.val < s.chanCount) :
    ((s.copy i).copy i).SameChannel s.primeAll i := by
  have others {r t : State} (conf : r.Configured) (count : r.chanCount = s.chanCount) (same : r.SameChannel t i) {j : Fin 8}
      (other : j ≠ i) (hj : j.val < s.chanCount) : r.SameChannel ((t.copy j).copy j) i := by
    rw [← count] at hi hj
    exact (same.copy_other conf hi hj other).copy_other conf hi hj other
  have primed := State.forChannels_reaches (f := fun t j => (t.copy j).copy j)
    (P := fun t => s.SameChannel t i) (Q := fun t => ((s.copy i).copy i).SameChannel t i)
    hi ⟨rfl, rfl, fun _ _ => rfl⟩ (fun t ht => ht.copy.copy) fun t j other hj =>
      ⟨fun ht => others conf rfl ht other hj, fun ht => others ((conf.copy i).copy i) (by simp) ht other hj⟩
  exact primed.withPhase .primed

/-- PRIME leaves in a configured channel's region what the channel's own two half-buffer writes leave there (R77, R156). -/
theorem State.Configured.pram_primeAll {s : State} (conf : s.Configured) {i : Fin 8} (hi : i.val < s.chanCount) {j : Nat}
    (hj : j < 2 * s.wp.toNat) :
    s.primeAll.pram (s.base (s.unitOf i) + j) = ((s.copy i).copy i).pram (s.base (s.unitOf i) + j) := by
  have same := (conf.sameChannel_primeAll hi).pram j
  simp only [State.copy_wp, State.copy_base, State.copy_unitOf] at same
  exact same hj

/-- PRIME leaves a channel that is not configured as it is (R156). -/
theorem State.chan_primeAll_unconfigured {s : State} {i : Fin 8} (out : s.chanCount ≤ i.val) : s.primeAll.chan i = s.chan i := by
  refine State.primeAll_keeps (P := fun t => t.chan i = s.chan i) rfl (fun t j kept hj => ?_) fun _ kept => kept
  rw [t.chan_copy, if_neg (by rintro rfl; omega), kept]

/-- PRIME leaves every byte outside the pulse memory as it is (R71, R156). -/
theorem State.Configured.read_primeAll {s : State} (conf : s.Configured) {a : Nat}
    (outside : a < pramAddr 0 ∨ pramAddr s.cfg.pramWords ≤ a) : Memory.read s.primeAll.mem a = Memory.read s.mem a := by
  have kept := State.primeAll_keeps (s := s)
    (P := fun t => t.Configured ∧ t.chanCount = s.chanCount ∧ t.cfg = s.cfg ∧ Memory.read t.mem a = Memory.read s.mem a)
    ⟨conf, rfl, rfl, rfl⟩ (fun t i ⟨conf, count, cfg, same⟩ hi => ?_) fun _ h => h
  · obtain ⟨-, -, -, same⟩ := kept
    exact same
  · refine ⟨conf.copy i, count, cfg, ?_⟩
    have fits := conf.copy_fits (count ▸ hi)
    rw [← same, t.copy_mem]
    refine Memory.read_writeWords_outside ?_
    rw [← cfg] at outside
    simp only [pramAddr] at outside ⊢
    omega

/-! ### The first two halves of a stream -/

section
variable {s : State} {i : Fin 8} {copies k : Nat} (h : s.Copied i copies)
include h

theorem State.Copied.copyBase_eq : s.copyBase i = s.base (s.unitOf i) + copies % 2 * s.wp.toNat := by
  rw [State.copyBase, h.sel]
  rcases Nat.mod_two_eq_zero_or_one copies with e | e <;> simp [e]

/-- A half-buffer write that writes anything fills its half with the stream's next words, END words after its end (R150, R151). -/
theorem State.Copied.copyWords_eq_streamWord (conf : s.Configured) (dirty : (s.chan i).dirty = true) (hk : k < s.wp.toNat) :
    (s.copyWords (s.chan i))[k]? = some (s.streamWord i (copies * s.wp.toNat + k)) := by
  have pos := h.pos
  rw [conf.mul_wp]
  obtain live | ended := Nat.lt_or_ge (s.chan i).pos.toNat (s.chan i).len
  · rw [State.copyWords, if_pos live, State.dataWords_getElem? live.le conf.wp_eq hk,
      show (s.chan i).pos.toNat = copies * s.halfBytes by omega]
  · rw [State.copyWords_flush ended dirty, List.getElem?_replicate_of_lt hk, State.streamWord_end (by omega)]

theorem State.Copied.pram_copy (conf : s.Configured) (dirty : (s.chan i).dirty = true) (hk : k < s.wp.toNat) :
    (s.copy i).pram (s.base (s.unitOf i) + copies % 2 * s.wp.toNat + k) = some (s.streamWord i (copies * s.wp.toNat + k)) := by
  have word := h.copyWords_eq_streamWord conf dirty hk
  obtain ⟨inRange, -⟩ := List.getElem?_eq_some_iff.mp word
  rw [← h.copyBase_eq, s.pram_copy_written i inRange, word]

end

section
variable {s : State} {i : Fin 8} (h : s.Copied i 0) (chans : s.ChanInv)
include h chans

/-- The second half-buffer write of a render fills the upper half (R156). -/
theorem State.Copied.copyBase_second : (s.copy i).copyBase i = s.base (s.unitOf i) + s.wp.toNat := by
  rw [(h.copy chans).copyBase_eq]
  exact congrArg _ (Nat.one_mul _)

/-- POS, SEL and DIRTY after the first two half-buffer writes (R156). -/
theorem State.Copied.two_copies (hi : i.val < s.chanCount) :
    (((s.copy i).copy i).chan i).pos.toNat = min (s.chan i).len (2 * s.halfBytes) ∧
    (((s.copy i).copy i).chan i).sel = false ∧
    (((s.copy i).copy i).chan i).dirty = decide (s.halfBytes < (s.chan i).len) := by
  obtain ⟨pos, sel, dirty⟩ : ((s.copy i).copy i).Copied i 2 := (h.copy chans).copy (chans.copy hi)
  have len : (((s.copy i).copy i).chan i).len = (s.chan i).len :=
    congrArg List.length ((State.copy_enc _ i i).trans (s.copy_enc i i))
  rw [len, State.copy_halfBytes, s.copy_halfBytes] at pos dirty
  refine ⟨pos, sel, dirty.trans (decide_eq_decide.mpr ?_)⟩
  rw [or_iff_right two_ne_zero, Nat.one_mul]

/-- Two half-buffer writes leave the first two halves of the stream; of an empty one only the first half is written (R151, R156). -/
theorem State.Copied.pram_two_copies (conf : s.Configured) {m : Nat} (hm : m < 2 * s.wp.toNat)
    (written : 0 < (s.chan i).len ∨ m < s.wp.toNat) :
    ((s.copy i).copy i).pram (s.base (s.unitOf i) + m) = some (s.streamWord i m) := by
  obtain low | high := Nat.lt_or_ge m s.wp.toNat
  · rw [State.pram_copy_outside _ i (.inl (by rw [h.copyBase_second chans]; omega))]
    have first := h.pram_copy conf (by rw [h.dirty]; simp) low
    simpa using first
  · obtain ⟨k, rfl⟩ := Nat.exists_eq_add_of_le high
    have once : (s.copy i).Copied i 1 := h.copy chans
    have dirty : ((s.copy i).chan i).dirty = true := by
      rw [once.dirty, Chan.len, s.copy_enc]
      simpa [Chan.len] using written
    have second := once.pram_copy (conf.copy i) dirty (show k < s.wp.toNat by omega)
    rw [State.streamWord, s.copy_enc, Nat.one_mul, Nat.add_assoc] at second
    exact second

/-- The second half-buffer write of an empty channel writes nothing, and the first one stays in the lower half (R151). -/
theorem State.Copied.pram_two_copies_empty (empty : (s.chan i).len = 0) (m : Nat) :
    ((s.copy i).copy i).pram (s.base (s.unitOf i) + s.wp.toNat + m) = s.pram (s.base (s.unitOf i) + s.wp.toNat + m) := by
  have len : ((s.copy i).chan i).len = 0 := (congrArg List.length (s.copy_enc i i)).trans empty
  have nothing := State.copyWords_flushed (s := s.copy i) (c := (s.copy i).chan i) (by rw [len]; exact Nat.zero_le _)
    (by rw [(h.copy chans).dirty, len]; simp)
  have half := s.copyWords_length_le (s.chan i)
  rw [State.pram_copy_outside _ i (by rw [nothing, List.length_nil]; omega),
    State.pram_copy_outside _ i (.inr (by rw [h.copyBase_eq]; omega))]

end

/-! ### The command -/

theorem execPrime_ready {s : State} (ready : s.Ready) :
    exec .prime s = if s.phase ≠ .loaded then raiseFault .sequenceError s else .next s.primeAll :=
  guardReady_ready ready _

/-- PRIME changes nothing of a channel but POS, DIRTY and SEL (R156). -/
theorem State.chan_primeAll (s : State) (i : Fin 8) : s.primeAll.chan i = { s.chan i with
    pos := (s.primeAll.chan i).pos, dirty := (s.primeAll.chan i).dirty, sel := (s.primeAll.chan i).sel } := by
  refine State.primeAll_keeps (s := s) (P := fun t => t.chan i = { s.chan i with
    pos := (t.chan i).pos, dirty := (t.chan i).dirty, sel := (t.chan i).sel }) rfl (fun t j kept _ => ?_) fun _ kept => kept
  rw [t.chan_copy]
  split
  · rw [kept]
    rfl
  · exact kept

/-- Settles O17: for each configured channel PRIME is its own two half-buffer writes, the first two of its render. -/
theorem primeWritesBothHalves : Obligations.PrimeWritesBothHalves := by
  refine ⟨rfl, fun s ready loaded => ?_, fun s running before => guardReady_before_init running before _, fun s ready other => ?_⟩
  · refine ⟨s.primeAll.chans, s.primeAll.mem, ?_, fun i => State.chan_primeAll_unconfigured, fun inv i hi => ?_,
      fun inv a outside => ?_⟩
    · rw [execPrime_ready ready, if_neg (not_not.mpr loaded), ← s.primeAll_frame]
    · have start := ((inv.inStream loaded hi).stream.loaded loaded).copied
      obtain ⟨⟨configured, -⟩, -, chans, -⟩ := inv
      have conf := configured ready.2
      have same := conf.sameChannel_primeAll hi
      obtain ⟨pos, sel, dirty⟩ := start.two_copies chans hi
      rw [← same.chan] at pos sel dirty
      refine ⟨(s.chan_primeAll i).trans (by rw [sel, dirty]; rfl), pos, fun m hm written => ?_, fun m hm empty => ?_⟩
      · exact (conf.pram_primeAll hi hm).trans (start.pram_two_copies chans conf hm written)
      · rw [Nat.add_assoc]
        refine (conf.pram_primeAll hi (by omega)).trans ?_
        rw [← Nat.add_assoc]
        exact start.pram_two_copies_empty chans empty m
    · obtain ⟨⟨configured, -⟩, -⟩ := inv
      exact (configured ready.2).read_primeAll outside
  · rw [execPrime_ready ready, if_pos other, raiseFault_running ready.1]

end Sys2Proof.Machine
end

section
/-! PROOFS. The mapping of channels to units and the commands NOP, INIT, ARM and START, and a host held in a WAIT
(spec/42_control.md R180, R181, R184 to R187). -/

namespace Sys2Proof.Machine

/-! ### The mapping -/

/-- The units of the configured channels stand 8 / N apart (R180). -/
theorem mapUnit_val {n : Nat} (legal : LegalCount n) {i : Fin 8} (hi : i.val < n) :
    (mapUnit n i).val = i.val * (8 / n) := by
  have inRange : i.val * (8 / n) < 8 := by rcases legal with rfl | rfl | rfl | rfl <;> omega
  exact Nat.mod_eq_of_lt inRange

/-- Settles O10: the formula and that the mapping is one to one, for every legal count; then the rule's table. -/
theorem channelsMapToUnits : Obligations.ChannelsMapToUnits :=
  ⟨fun _ legal _ hi => ⟨mapUnit_val legal hi, fun _ hj => mapUnit_injective legal hi hj⟩, by decide⟩

/-! ### NOP -/

/-- A command of an opcode without operands is illegal if it has any other bit (R110). -/
theorem unreserved_illegal {n : Nat} {reserved : BitVec n} (set : reserved ≠ 0#n) (i : Instr) :
    unreserved reserved i = .error .illegalCommand :=
  if_neg set

/-- Settles O14: whether NOP passes its guard or is ignored, the state is the same. -/
theorem nopChangesNothing : Obligations.NopChangesNothing := by
  refine ⟨rfl, fun s => ite_self _, fun w op set => ?_⟩
  rw [decodeCmd, op]
  exact unreserved_illegal set .nop

/-! ### INIT -/

/-- A count the engine accepts gives sizes that fit their fields (R10). -/
theorem State.initialise_bpc_toNat (s : State) {nch : BitVec 4} (legal : LegalCount nch.toNat) :
    (s.initialise nch).bpc.toNat = 8 / nch.toNat := by
  refine Nat.mod_eq_of_lt ?_
  rw [blocksPerChan, totalBlocks]
  rcases legal with h | h | h | h <;> rw [h] <;> decide

theorem State.initialise_wp_toNat (s : State) {nch : BitVec 4} (legal : LegalCount nch.toNat) :
    (s.initialise nch).wp.toNat = s.cfg.raw.ppb * (8 / nch.toNat) / 2 := by
  obtain ⟨-, ppb, -⟩ := s.cfg.valid
  refine Nat.mod_eq_of_lt ?_
  rw [writePulses, blocksPerChan, totalBlocks]
  rcases legal with h | h | h | h <;> rw [h] <;> omega

/-- INIT changes the configuration and the units, and nothing else (R181). -/
theorem State.initialise_frame (s : State) (nch : BitVec 4) :
    s.initialise nch = { s with
      initDone := true, nch := nch, bpc := (s.initialise nch).bpc, wp := (s.initialise nch).wp,
      map := (s.initialise nch).map, units := (s.initialise nch).units } := rfl

/-- The unit of a configured channel as INIT leaves it (R181). -/
theorem State.unit_initialise_mapped (s : State) {nch : BitVec 4} (legal : LegalCount nch.toNat) {i : Fin 8}
    (hi : i.val < nch.toNat) :
    (s.initialise nch).unit (mapUnit nch.toNat i) =
      (s.unit (mapUnit nch.toNat i)).configure s.cfg nch.toNat i s.gpio[i] := by
  rw [s.unit_initialise, mappedChan_mapUnit legal hi]

/-- A unit that no channel is mapped to is left as it was (R181). -/
theorem State.unit_initialise_unmapped (s : State) {nch : BitVec 4} {u : Fin 8}
    (unmapped : ∀ i : Fin 8, i.val < nch.toNat → mapUnit nch.toNat i ≠ u) : (s.initialise nch).unit u = s.unit u := by
  rw [s.unit_initialise, mappedChan_eq_none.mpr unmapped]

/-- INIT of an engine that is not HALTED, by its checks (R181). -/
theorem execInit_running {s : State} (running : s.fault = none) (nch ngpio : BitVec 4) :
    exec (.init nch ngpio) s =
      if s.initDone then raiseFault .reinit s
      else if legalConfig nch ngpio then .next (s.initialise nch)
      else raiseFault .configError s :=
  guardHalted_running running _

/-- Settles O15: the word, the effect of a legal INIT field by field, and the checks one after the other. -/
theorem initConfigures : Obligations.InitConfigures := by
  refine ⟨fun nch ngpio => decodeCmd_eq_ok_iff.mpr rfl, fun s nch running before legal => ?_,
    fun s nch ngpio running => ⟨fun done => ?_, fun before illegal => ?_⟩⟩
  · have unitOf : ∀ {i : Fin 8}, i.val < nch.toNat → (s.initialise nch).unitOf i = mapUnit nch.toNat i :=
      fun hi => (s.unitOf_initialise nch _).trans (if_pos hi)
    refine ⟨s.initialise nch, ?_, s.initialise_frame nch, s.initialise_bpc_toNat legal, s.initialise_wp_toNat legal,
      s.unitOf_initialise nch, fun i hi => ?_, fun u unmapped => ?_⟩
    · simp [execInit_running running, before, (legalConfig_iff nch nch).mpr ⟨legal, rfl⟩]
    · rw [unitOf hi]
      exact s.unit_initialise_mapped legal hi
    · exact s.unit_initialise_unmapped fun i hi => unitOf hi ▸ unmapped i hi
  · rw [execInit_running running, if_pos done, raiseFault_running running]
  · rw [execInit_running running, if_neg (by simp [before]), if_neg (mt (legalConfig_iff nch ngpio).mp illegal),
      raiseFault_running running]

/-! ### ARM -/

theorem execArm_ready {s : State} (ready : s.Ready) :
    exec .arm s = if s.phase ≠ .primed then raiseFault .sequenceError s else .next s.armAll :=
  guardReady_ready ready _

/-- A primed channel has no signal yet (R41). -/
theorem State.LifeInv.sig_primed {s : State} (life : s.LifeInv) (primed : s.phase = .primed) {i : Fin 8}
    (hi : i.val < s.chanCount) : (s.chan i).sig = .none := by
  obtain ⟨-, admits, -⟩ := life
  have admitted := admits i hi
  rw [primed, RenderPhase.admits_primed] at admitted
  obtain ⟨⟨-, -, sig⟩, -⟩ := admitted
  exact sig

/-- Settles O18: the word, the effect in phase PRIMED, and the two checks. -/
theorem armCreatesSignals : Obligations.ArmCreatesSignals := by
  refine ⟨rfl, fun s ready primed => ⟨fun inv i hi => ?_, s.armAll.chans, ?_, s.chan_armAll⟩,
    fun s running before => guardReady_before_init running before _, fun s ready other => ?_⟩
  · obtain ⟨-, -, -, -, life⟩ := inv
    exact life.sig_primed primed hi
  · rw [execArm_ready ready, if_neg (not_not.mpr primed)]
    rfl
  · rw [execArm_ready ready, if_pos other, raiseFault_running ready.1]

/-! ### START -/

theorem execStart_ready {s : State} (ready : s.Ready) :
    exec .start s = if s.phase ≠ .armed then raiseFault .sequenceError s else .next s.startAll :=
  guardReady_ready ready _

/-- Settles O19: the word, the effect in phase ARMED on the channels and on the units, and the two checks. -/
theorem startLaunchesUnits : Obligations.StartLaunchesUnits := by
  refine ⟨rfl, fun s ready armed => ⟨s.startAll.chans, s.startAll.units, ?_, s.chan_startAll, fun u served => ?_,
    fun u unserved => ?_⟩, fun s running before => guardReady_before_init running before _, fun s ready other => ?_⟩
  · rw [execStart_ready ready, if_neg (not_not.mpr armed)]
    rfl
  · exact (s.unit_startAll u).trans (if_pos ((s.serves_iff u).mpr served))
  · refine (s.unit_startAll u).trans (if_neg fun serves => ?_)
    obtain ⟨i, hi, unit⟩ := (s.serves_iff u).mp serves
    exact unserved i hi unit
  · rw [execStart_ready ready, if_pos other, raiseFault_running ready.1]

/-! ### A held host -/

/-- A held host returns from its WAIT once the signal is given, and else passes (R186; logs 3, 5). -/
theorem hostStep_held {s : State} {ch : Fin 8} (held : s.hold = some ch) :
    hostStep s = if (s.chan ch).sig = .set then .next (s.release ch) else .next s := by
  rw [hostStep, held]

/-- Settles O21: the host's turn leaves the channels as they are, so the two outcomes are those of a held host's step. -/
theorem heldHostReturnsOnSignal : Obligations.HeldHostReturnsOnSignal := by
  intro s ch rest turn unmarked held
  let t : State := { s with schedule := rest }
  have holds : step s = if (s.chan ch).sig = .set then .next (t.release ch) else .next t :=
    (step_host turn unmarked).trans (hostStep_held (s := t) held)
  refine ⟨fun pending => holds.trans (if_neg pending), fun given => ?_⟩
  obtain ⟨chans, phase, released, effect⟩ := t.release_effect ch
  exact ⟨chans, phase, (holds.trans (if_pos given)).trans (congrArg _ released), effect⟩

end Sys2Proof.Machine
end

section
/-! PROOFS. The service of the interrupt events (spec/60_exceptions.md R214 to R218): which event a step of the service agent takes,
what the service of an end event does, and that the services of two units commute. -/

namespace Sys2Proof.Machine

/-! ### Which event is taken -/

section
variable {s : State} {u : Fin 8}

/-- A pending threshold event is taken (R214). -/
theorem serviceStep_thr (pending : (s.unit u).thrPending = true) : serviceStep u s = exec (.eventThr u) s := by
  rw [serviceStep, State.eligibleEvent, if_pos pending]
  exact congrArg (exec · s) (decodeEvent_packEvent false u)

/-- A pending end event is taken if no threshold event is raised (R214). -/
theorem serviceStep_end (clear : (s.unit u).thrRaw = false) (pending : (s.unit u).endPending = true) :
    serviceStep u s = exec (.eventEnd u) s := by
  have noThr : ¬ (s.unit u).thrPending = true := by rw [TxUnit.thrPending_iff, clear]; nofun
  rw [serviceStep, State.eligibleEvent, if_neg noThr, clear, pending]
  exact congrArg (exec · s) (decodeEvent_packEvent true u)

/-- With neither event eligible the service agent passes (R214; log 3). -/
theorem serviceStep_none (noThr : ¬ (s.unit u).thrPending = true)
    (noEnd : ¬ ((s.unit u).thrRaw = false ∧ (s.unit u).endPending = true)) : serviceStep u s = .next s := by
  have ineligible : ¬ ((s.unit u).endPending && !(s.unit u).thrRaw) = true := by
    rw [Bool.and_eq_true, Bool.not_eq_true']
    exact mt And.symm noEnd
  rw [serviceStep, State.eligibleEvent, if_neg noThr, if_neg ineligible]

end

/-- Settles O42: taking the turn leaves the units as they are, so the three cases are those of the service agent's step. -/
theorem serviceStepTakesEligibleEvent : Obligations.ServiceStepTakesEligibleEvent := by
  intro s turns u turn unmarked
  rw [step_service turn unmarked]
  simp only [← TxUnit.thrPending_iff, ← TxUnit.endPending_iff]
  let t : State := { s with schedule := turns }
  exact ⟨serviceStep_thr (s := t), fun ⟨clear, pending⟩ => serviceStep_end (s := t) clear pending, serviceStep_none (s := t)⟩

/-! ### The service of an end event -/

/-- A unit that is not as after reset serves a configured channel (R181). -/
theorem State.Configured.exists_unitOf {s : State} (conf : s.Configured) {u : Fin 8} (changed : s.unit u ≠ TxUnit.reset) :
    ∃ i : Fin 8, i.val < s.chanCount ∧ s.unitOf i = u := by
  have ⟨_, _, _, _, _, unserved⟩ := conf
  by_contra unmapped
  exact changed (unserved u fun i hi unit => unmapped ⟨i, hi, (conf.unitOf_eq hi).trans unit⟩)

/-- Before INIT every unit is as after reset (R58). -/
theorem State.ConfigInv.configured_of_changed {s : State} (hs : s.ConfigInv) {u : Fin 8} (changed : s.unit u ≠ TxUnit.reset) :
    s.Configured := by
  obtain ⟨after, before⟩ := hs
  cases done : s.initDone with
  | true => exact after done
  | false =>
    obtain ⟨-, -, -, -, reset⟩ := before done
    exact absurd (reset u) changed

/-- The signal of a channel whose unit's end event is raised has not been given (R40, R46). -/
theorem Chan.Running.sig_of_end {c : Chan} {t : TxUnit} (h : c.Running t) (raised : t.endRaw = true) : c.sig = .clear := by
  obtain ⟨⟨-, -, sig⟩, -⟩ | ⟨⟨-, -, sig⟩, -⟩ | ⟨-, -, -, clear⟩ | ⟨-, -, -, clear⟩ := h
  · exact sig
  · exact sig
  all_goals exact absurd (raised.symm.trans clear) nofun

/-- An end event is raised only in a render whose signal has not been given (R216). -/
theorem State.Inv.sig_of_end {s : State} (inv : s.Inv) {u : Fin 8} (raised : (s.unit u).endRaw = true) :
    (s.chan (s.chanOf u)).sig = .clear := by
  obtain ⟨config, -, -, -, life⟩ := inv
  have changed : s.unit u ≠ TxUnit.reset := fun reset => by rw [reset] at raised; cases raised
  have conf := config.configured_of_changed changed
  obtain ⟨i, hi, rfl⟩ := conf.exists_unitOf changed
  obtain ⟨-, running⟩ := life.running_of_busy hi fun ⟨_, _, clear⟩ => absurd (raised.symm.trans clear) nofun
  rw [conf.chanOf_unitOf hi]
  exact running.sig_of_end raised

/-- Settles O28: the effect in every state, and the signal on entry in a state that keeps the invariants. -/
theorem endServiceGivesSignal : Obligations.EndServiceGivesSignal := by
  refine fun s u => ⟨⟨(s.serveEnd u).chans, (s.serveEnd u).units, ?_, s.unit_serveEnd u, s.chan_serveEnd u⟩,
    fun inv raised => inv.sig_of_end raised⟩
  exact congrArg Host.Outcome.next (s.serveEnd_frame u)

/-! ### Services of two units -/

theorem State.updUnit_comm (s : State) {u v : Fin 8} (other : u ≠ v) (f g : TxUnit → TxUnit) :
    (s.updUnit u f).updUnit v g = (s.updUnit v g).updUnit u f := by
  have units : ((s.updUnit u f).updUnit v g).units = ((s.updUnit v g).updUnit u f).units := State.units_ext fun w => by
    simp only [State.unit_updUnit]
    split_ifs with atV atU
    · exact absurd (atU.symm.trans atV) other
    all_goals rfl
  exact congrArg (fun units' => { s with units := units' }) units

theorem State.updChan_comm (s : State) {i j : Fin 8} (other : i ≠ j) (f g : Chan → Chan) :
    (s.updChan i f).updChan j g = (s.updChan j g).updChan i f := by
  have chans : ((s.updChan i f).updChan j g).chans = ((s.updChan j g).updChan i f).chans := State.chans_ext fun k => by
    simp only [State.chan_updChan]
    split_ifs with atJ atI
    · exact absurd (atI.symm.trans atJ) other
    all_goals rfl
  exact congrArg (fun chans' => { s with chans := chans' }) chans

/-- A half-buffer write of a channel reads only its send state and the configuration (R150). -/
theorem State.copy_of_chan {s t : State} (frame : t = { s with chans := t.chans, mem := t.mem }) {i : Fin 8}
    (chan : t.chan i = s.chan i) : t.copy i =
      { t.updChan i s.copiedChan with
        mem := Memory.writeWords t.mem (pramAddr (s.copyBase i)) (s.copyWords (s.chan i)) } := by
  have words : t.copyWords (s.chan i) = s.copyWords (s.chan i) := by
    rw [frame]
    rfl
  have place : t.copyBase i = s.copyBase i := by
    rw [State.copyBase, chan, frame]
    rfl
  have sent : t.copiedChan = s.copiedChan := by
    rw [frame]
    rfl
  rw [State.copy, chan, words, place, sent]

theorem State.copy_copy (s : State) {i j : Fin 8} (other : j ≠ i) : (s.copy i).copy j =
    { (s.updChan i s.copiedChan).updChan j s.copiedChan with
      mem := Memory.writeWords (s.copy i).mem (pramAddr (s.copyBase j)) (s.copyWords (s.chan j)) } :=
  State.copy_of_chan (s.copy_frame i) ((s.chan_copy i j).trans (if_neg other))

/-- A half-buffer write and a change of another channel commute. -/
theorem State.copy_updChan (s : State) {i j : Fin 8} (other : i ≠ j) (f : Chan → Chan) :
    (s.copy i).updChan j f = (s.updChan j f).copy i := by
  rw [State.copy_of_chan (s := s) (t := s.updChan j f) rfl ((s.chan_updChan j f i).trans (if_neg other)),
    ← s.updChan_comm other]
  rfl

/-- Half-buffer writes of two configured channels commute: their regions lie apart (R77, R150). -/
theorem State.Configured.copy_comm {s : State} (conf : s.Configured) (wf : Memory.wf s.mem) {i j : Fin 8}
    (hi : i.val < s.chanCount) (hj : j.val < s.chanCount) (other : i ≠ j) : (s.copy i).copy j = (s.copy j).copy i := by
  have apart := conf.regions_apart hi hj other.symm
  have first := s.copyBase_bounds i
  have second := s.copyBase_bounds j
  have writes := Memory.writeWords_comm wf (a := pramAddr (s.copyBase i)) (b := pramAddr (s.copyBase j))
    (ws := s.copyWords (s.chan i)) (vs := s.copyWords (s.chan j)) (by simp only [pramAddr]; omega)
  rw [s.copy_copy other.symm, s.copy_copy other, s.updChan_comm other, s.copy_mem, s.copy_mem, writes]

/-- Two services of different units commute if their parts `F` and `G` on the channels do, neither of which looks at the units'
events. -/
theorem State.service_comm {s : State} {F G : State → Fin 8 → State} {i j : Fin 8} (comm : G (F s i) j = F (G s j) i)
    {u v : Fin 8} (other : u ≠ v) {f g : TxUnit → TxUnit} (hF : ∀ t : State, F (t.updUnit v g) i = (F t i).updUnit v g)
    (hG : ∀ t : State, G (t.updUnit u f) j = (G t j).updUnit u f) :
    (G ((F s i).updUnit u f) j).updUnit v g = (F ((G s j).updUnit v g) i).updUnit u f := by
  rw [hF, hG, comm, State.updUnit_comm _ other]

section
variable {s t : State} {v : Fin 8} (unit : t.unit v = s.unit v)
include unit

/-- A threshold service reads its unit's channel from the unit, so a service of another unit's event does not move it (R215). -/
theorem State.serveThr_after : t.serveThr v = (t.copy (s.chanOf v)).updUnit v fun r => { r with thrRaw := false } := by
  rw [State.serveThr, State.chanOf, unit, State.chanOf]

/-- Nor does it move the service of an end event (R216). -/
theorem State.serveEnd_after :
    t.serveEnd v = (t.updChan (s.chanOf v) Chan.complete).updUnit v fun r => { r with endRaw := false } := by
  rw [State.serveEnd, State.chanOf, unit, State.chanOf]

end

theorem State.unit_serveThr_other (s : State) {u v : Fin 8} (other : v ≠ u) : (s.serveThr u).unit v = s.unit v := by
  rw [s.unit_serveThr, if_neg other]

theorem State.unit_serveEnd_other (s : State) {u v : Fin 8} (other : v ≠ u) : (s.serveEnd u).unit v = s.unit v := by
  rw [s.unit_serveEnd, if_neg other]

/-- A used unit serves the configured channel whose unit it is (R56, R180). -/
theorem State.Configured.chanOf_used {s : State} (conf : s.Configured) {u : Fin 8} (used : (s.unit u).used = true) :
    (s.chanOf u).val < s.chanCount ∧ s.unitOf (s.chanOf u) = u := by
  obtain ⟨i, hi, rfl⟩ := conf.exists_unitOf fun reset => by rw [reset] at used; cases used
  rw [conf.chanOf_unitOf hi]
  exact ⟨hi, rfl⟩

/-- Settles O56: two used units have two channels, whose send states and regions are apart. -/
theorem servicesCommute : Obligations.ServicesCommute := by
  intro s u v conf ⟨wf, _⟩ other usedU usedV
  obtain ⟨hi, unitU⟩ := conf.chanOf_used usedU
  obtain ⟨hj, unitV⟩ := conf.chanOf_used usedV
  have channels : s.chanOf u ≠ s.chanOf v := fun same => other (by rw [← unitU, same, unitV])
  refine ⟨?_, ?_, ?_⟩
  · rw [State.serveThr_after (s.unit_serveThr_other other.symm), State.serveThr_after (s.unit_serveThr_other other)]
    exact State.service_comm (F := State.copy) (G := State.copy)
      (conf.copy_comm wf hi hj channels) other (fun _ => rfl) fun _ => rfl
  · rw [State.serveEnd_after (s.unit_serveThr_other other.symm), State.serveThr_after (s.unit_serveEnd_other other)]
    exact State.service_comm (F := State.copy) (G := (·.updChan · Chan.complete))
      (s.copy_updChan channels _) other (fun _ => rfl) fun _ => rfl
  · rw [State.serveEnd_after (s.unit_serveEnd_other other.symm), State.serveEnd_after (s.unit_serveEnd_other other)]
    exact State.service_comm (F := (·.updChan · Chan.complete)) (G := (·.updChan · Chan.complete))
      (s.updChan_comm channels _ _) other (fun _ => rfl) fun _ => rfl

end Sys2Proof.Machine
end
